-- ==== Sys2Proof/Word.lean ====
section
/-!
DEFINITION. The plain types the whole model is written over: words, bytes, addresses, byte lanes, the two ports and
the three banks, with a pair indexed by port and a triple indexed by bank.
-/

namespace Sys2Proof

/-- One byte lane. -/
abbrev Byte := BitVec 8

/-- A word is 16 bits (00_scope.md, Conventions). -/
abbrev Word := BitVec 16

/-- A word address of 20 bits (00_scope.md, Conventions). -/
abbrev Addr := BitVec 20

/-- A 24-bit base as a descriptor image carries it (R169, R173). -/
abbrev Addr24 := BitVec 24

/-- A set of lines 0 to 63: one bit a line, so it has no order and no duplicates and equal sets are equal data
(R15, R16; log entry 22). -/
abbrev LineSet := BitVec 64

/-- A window number, 0 to 15. -/
abbrev Win := Fin 16

/-- A catch-up channel, 0 to 3. -/
abbrev Chan := Fin 4

/-- The lower and the upper byte enable of an access (true: enabled). -/
structure Lanes where
  lower : Bool
  upper : Bool
deriving DecidableEq, Repr

/-- Both byte lanes enabled. -/
def Lanes.both : Lanes := ⟨true, true⟩

/-- Port A and Port B (PORT_A, PORT_B as producer). -/
inductive Port where
  | a
  | b
deriving DecidableEq, Repr

/-- The other port: the consumer of a window whose producer is `p`, and the reverse (R2). -/
def Port.other : Port → Port
  | .a => .b
  | .b => .a

/-- One value for each port. -/
structure PerPort (α : Type) where
  a : α
  b : α
deriving DecidableEq, Repr

def PerPort.get {α : Type} (x : PerPort α) : Port → α
  | .a => x.a
  | .b => x.b

def PerPort.set {α : Type} (x : PerPort α) (p : Port) (v : α) : PerPort α :=
  match p with
  | .a => { x with a := v }
  | .b => { x with b := v }

/-- The three banks of a window (R3). -/
inductive Bank where
  | b0
  | b1
  | b2
deriving DecidableEq, Repr

/-- One value for each bank. -/
structure PerBank (α : Type) where
  b0 : α
  b1 : α
  b2 : α
deriving DecidableEq, Repr

def PerBank.get {α : Type} (x : PerBank α) : Bank → α
  | .b0 => x.b0
  | .b1 => x.b1
  | .b2 => x.b2

def PerBank.set {α : Type} (x : PerBank α) (k : Bank) (v : α) : PerBank α :=
  match k with
  | .b0 => { x with b0 := v }
  | .b1 => { x with b1 := v }
  | .b2 => { x with b2 := v }

end Sys2Proof
end

