-- ==== Sys2Proof/Syntax.lean ====
section
/-!
DEFINITION. The commands of the block: one constructor of `Instr` for each row of spec/opcode_table.json, with the
operands of the port events, of the pins and of the management frames; and the commands a management frame spells
(`LinkCommand`, R170 and the table before it).
-/

namespace Sys2Proof

/-- The four tag words (R5). -/
inductive TagWord where
  | seq
  | status
  | fill
  | control
deriving DecidableEq, Repr

/-- An edge of SCK within a frame (R166): a rising edge samples SDI, a falling edge changes SDO. -/
inductive SckEdge where
  | rising (sdi : Bool)
  | falling
deriving DecidableEq, Repr

/-- The 14 bytes of a descriptor image, field by field (R173). Nothing in it is checked yet: the three bases are 24 bits. -/
structure DescriptorImage where
  flags : Byte
  logicalBase : Addr24
  length : Byte
  bank1Base : Addr24
  bank2Base : Addr24
  pinLimit : Byte
  writeMask : Word
deriving DecidableEq, Repr

/-- The commands of the management link's table, with their argument bytes (11_management_link.md, Commands). -/
inductive LinkCommand where
  | nop
  | getStatus
  | setWindow (window : Byte) (image : DescriptorImage)
  | getWindow (window : Byte) (selection : Byte)
  | getWindowState (window : Byte)
  | clearStage
  | hold
  | unhold
  | run
  | standby
  | softReset
  | setTiming (source : Byte) (prescaler : Word) (guardTicks : Byte)
  | setPeriod (period : Word)
  | boundary
  | latchTimer
  | readTimer
  | getChannel (channel : Byte)
  | setChannels (masks : Byte)
  | setLimits (runLimit : Byte) (stallLimit : Byte) (accessTime : Byte)
  | setNoticeMasks (port : Byte) (kinds : Byte) (windows : Word) (routing : Byte)
  | poll (port : Byte)
  | readGlobal (port : Byte)
deriving DecidableEq, Repr

/-- The commands of the block, one constructor for each row of spec/opcode_table.json. -/
inductive Instr where
  /-- ACCESS_ARRIVAL (R26): a port presents chip select with the strobes given. -/
  | accessArrival (port : Port) (addr : Addr) (readStrobe : Bool) (writeStrobe : Bool) (lanes : Lanes) (data : Word)
  /-- BUS_CYCLE_END (R26). -/
  | busCycleEnd (port : Port)
  /-- SEQ_READ (R99): `port` reads the SEQ word of `window`. -/
  | seqRead (port : Port) (window : Win) (lanes : Lanes)
  /-- STATUS_READ (R101): `port` reads the STATUS word of `window`. -/
  | statusRead (port : Port) (window : Win) (lanes : Lanes)
  /-- EXPLICIT_RELEASE (R48): the producer of `window` writes 0x0001 to CONTROL with both lanes. -/
  | explicitRelease (window : Win)
  /-- ABANDON (R55): the producer of `window` writes 0x0002 to CONTROL with both lanes. -/
  | abandon (window : Win)
  /-- UNPIN (R65): the consumer of `window` writes 0x0003 to CONTROL with both lanes. -/
  | unpin (window : Win)
  /-- CONTROL_WRITE_REFUSED (R105): `port` writes `data` to CONTROL of `window`. -/
  | controlWriteRefused (port : Port) (window : Win) (lanes : Lanes) (data : Word)
  /-- TAG_WRITE (R104): `port` writes to SEQ, STATUS or FILL of `window`. -/
  | tagWrite (port : Port) (window : Win) (word : TagWord) (lanes : Lanes) (data : Word)
  /-- MEMORY_ACCESS_COMPLETION (R139). -/
  | memoryAccessCompletion
  /-- TICK (R109). -/
  | tick
  /-- STALL_LIMIT_REACHED (R45): the tick at which the stall of `port` reaches the limit. -/
  | stallLimitReached (port : Port)
  /-- PERIOD_BOUNDARY (R114): the tick at which, under INTERNAL, the count reaches the period. -/
  | periodBoundary
  /-- SYNC_IN_EDGE (R115): SYNC_IN rises. -/
  | syncInEdge
  /-- SYNC_LOSS (R115): the tick at which the count reaches period plus guard. -/
  | syncLoss
  /-- FLYWHEEL_BOUNDARY (R116): the tick at which, in FLYWHEEL, the count reaches the period. -/
  | flywheelBoundary
  /-- FRAME_ERROR (R168): SS# rises and ends a malformed frame. -/
  | frameError
  /-- EMPTY_FRAME (R168): SS# rises with no whole byte received. -/
  | emptyFrame
  /-- NOP (R167). -/
  | nop
  /-- GET_STATUS (R171). -/
  | getStatus
  /-- SET_WINDOW (R124). -/
  | setWindow (window : Byte) (image : DescriptorImage)
  /-- GET_WINDOW (R170). -/
  | getWindow (window : Byte) (selection : Byte)
  /-- GET_WINDOW_STATE (R25). -/
  | getWindowState (window : Byte)
  /-- CLEAR_STAGE (R126). -/
  | clearStage
  /-- HOLD (R127). -/
  | hold
  /-- UNHOLD (R127). -/
  | unhold
  /-- RUN (R158). -/
  | run
  /-- STANDBY (R159). -/
  | standby
  /-- SOFT_RESET (R162): its frame end. -/
  | softReset
  /-- SOFT_RESET_APPLY (R162 step 2): the completion at which every block takes its reset values. -/
  | softResetApply
  /-- SOFT_RESET_DONE (R162 step 4): the completion of the last reclassified pass-through access. -/
  | softResetDone
  /-- SET_TIMING (R112). -/
  | setTiming (source : Byte) (prescaler : Word) (guardTicks : Byte)
  /-- SET_PERIOD (R111). -/
  | setPeriod (period : Word)
  /-- BOUNDARY (R119). -/
  | boundary
  /-- LATCH_TIMER (R122). -/
  | latchTimer
  /-- READ_TIMER (R122). -/
  | readTimer
  /-- GET_CHANNEL (R97). -/
  | getChannel (channel : Byte)
  /-- SET_CHANNELS (R91). -/
  | setChannels (masks : Byte)
  /-- SET_LIMITS (R137). -/
  | setLimits (runLimit : Byte) (stallLimit : Byte) (accessTime : Byte)
  /-- SET_NOTICE_MASKS (R153). -/
  | setNoticeMasks (port : Byte) (kinds : Byte) (windows : Word) (routing : Byte)
  /-- POLL (R154). -/
  | poll (port : Byte)
  /-- READ_GLOBAL (R155). -/
  | readGlobal (port : Byte)
  /-- RESET_PIN (R161): RESET# falls. -/
  | resetPin
  /-- RESET_RELEASE (R161): RESET# rises. -/
  | resetRelease
  /-- POWER_UP (R164): power is applied. -/
  | powerUp
  /-- POWER_ON_HOLD_END (R164): the supply is in range and 1,024 CLKIN periods have passed. -/
  | powerOnHoldEnd
  /-- FRAME_START (R166): SS# falls. -/
  | frameStart
  /-- SCK_EDGE (R166). -/
  | sckEdge (edge : SckEdge)
deriving DecidableEq, Repr

end Sys2Proof
end

