-- ==== Sys2Proof/WellFormed.lean ====
section
/-!
DEFINITION. Which commands are well formed: those the table's row can stand for. Everything else about a command's
operands is judged by the part itself (BAD_ARG, VIOLATION, FRAME_ERROR).
-/

namespace Sys2Proof

/-- An access arrives when chip select comes with a read strobe or a write strobe, so an arrival has at least one
(R26). TAG_WRITE is a write to SEQ, STATUS or FILL; a write to CONTROL is one of the CONTROL rows (R104, R105). -/
def Instr.wf : Instr → Bool
  | .accessArrival _ _ readStrobe writeStrobe _ _ => readStrobe || writeStrobe
  | .tagWrite _ _ word _ _ => word ≠ .control
  | _ => true

end Sys2Proof
end

