-- ==== Sys2Proof/Decode.lean ====
section
/-!
DEFINITION. The command that a word spells by the bits of spec/opcode_table.json. No row of that table gives any bits
("fields" is empty in all 48), so no word spells a command (log entry 21). The bytes of a management frame are the
link's own (Sys2Proof/Machine/Link.lean), not the table's.
-/

namespace Sys2Proof

/-- No row of the table gives bits: none. -/
def decodeTableWord (_nbits _w : Nat) : Option Instr := none

end Sys2Proof
end

