-- ==== Sys2Proof/Config.lean ====
section
/-!
DEFINITION. The free values of the model: constants with no body, so that no proof can see what they are. Each is
applied to the counter `freeIndex` of State, so that every use is a fresh value (log entry 3).
-/

namespace Sys2Proof

/-- A word the spec leaves open: the half of a read word whose lane is disabled, "whatever the memory drives there"
(R31); the word a memory slower than the access time drives (R137); in two of its bits, which of a stall limit and a
boundary due at one tick comes first at each port (R46). -/
opaque Config.freeWord : Nat → Word

/-- A choice the spec leaves open: whether a write that the RESET pin ends lands (R146, R161); whether a write to a
memory slower than the access time takes (R137). -/
opaque Config.freeChoice : Nat → Bool

end Sys2Proof
end

