-- ==== Sys2Proof/Machine/State.lean ====
section
/-!
DEFINITION. The state of the IS216, block by block as 00_scope.md lists the blocks, and its values right after reset.
`Part` holds the ten blocks that act on each other inside one event; `State` adds the shared SRAM, the frame and the
reply of the management link, the reset pins, the model's own fields and the queue of commands.
-/

namespace Sys2Proof.Machine

/-! ## Names of the spec -/

/-- Operating states (R157). -/
inductive OpState where
  | standby
  | run
  | stopping
deriving DecidableEq, Repr

/-- Window states (R10). -/
inductive WinState where
  | off
  | live
  | retiring
deriving DecidableEq, Repr

/-- Release policies (R4). -/
inductive Policy where
  | explicit
  | boundary
deriving DecidableEq, Repr

/-- Copy jobs (R80, R81). -/
inductive Job where
  | catchUp
  | retire
deriving DecidableEq, Repr

/-- Timer sources (R108). -/
inductive Source where
  | internal
  | external
  | command
deriving DecidableEq, Repr

/-- Timer sync states (R108). -/
inductive SyncState where
  | locked
  | flywheel
deriving DecidableEq, Repr

/-- Window notice kinds (R149). -/
inductive Notice where
  | imageReady
  | dropped
  | pinExpired
  | backReady
  | overrun
  | violation
  | stallTimeout
  | retired
deriving DecidableEq, Repr

/-- Global notice kinds (R151). -/
inductive GlobalNotice where
  | boundary
  | syncLost
  | syncRestored
  | configApplied
  | configRejected
  | standbyReached
deriving DecidableEq, Repr

/-- Management results (R169). -/
inductive Result where
  | ok
  | badArg
  | refused
  | busy
  | conflict
  | frameError
deriving DecidableEq, Repr

/-- A set of window notice kinds, one bit a kind in the order of R176; no order, no duplicates (R148). -/
abbrev NoticeSet := BitVec 8

/-- A set of global notice kinds, one bit a kind in the order of R176 (R148). -/
abbrev GlobalSet := BitVec 6

/-! ## Windows (01_windows_banks_and_images.md) -/

/-- A window descriptor, staged or live (R1). The length and the pin limit are counts. -/
structure Descriptor where
  enable : Bool
  producer : Port
  logicalBase : Addr
  length : Nat
  bank1Base : Addr
  bank2Base : Addr
  policy : Policy
  skipEmpty : Bool
  tags : Bool
  pinLimit : Nat
  writeMask : Word
deriving DecidableEq, Repr

/-- The reset descriptor (R1's table, R9). -/
def Descriptor.reset : Descriptor where
  enable := false
  producer := .a
  logicalBase := 0#20
  length := 1
  bank1Base := 0#20
  bank2Base := 0#20
  policy := .boundary
  skipEmpty := false
  tags := false
  pinLimit := 0
  writeMask := 0xFFFF#16

/-- A window's working geometry (R11). -/
structure Geometry where
  producer : Port
  logicalBase : Addr
  length : Nat
  bank1Base : Addr
  bank2Base : Addr
deriving DecidableEq, Repr

/-- The ready bank with its image number and fill (R12, R14). -/
structure ReadyImage where
  bank : Bank
  number : Word
  fill : Nat
deriving DecidableEq, Repr

/-- The service state of a LIVE or RETIRING window: what its record drops when it becomes OFF (R22). The spare and
the latest bank, the copy status and the in-copy marks are computed (Machine/Operands.lean, Machine/CopyEngine.lean;
log entry 20). -/
structure Service where
  /-- RETIRING rather than LIVE (R10). -/
  retiring : Bool
  geometry : Geometry
  front : Bank
  back : Bank
  ready : Option ReadyImage
  /-- The stale set of each bank (R15). -/
  stale : PerBank LineSet
  /-- The dirty set (R16). -/
  dirty : LineSet
  /-- Not pinned, or pinned with a pin age (R18). -/
  pin : Option Nat
  initial : Bool
  late : Bool
  deferred : Bool
  releasePending : Bool
  carried : Bool
deriving DecidableEq, Repr

/-- A window's live record (R10 to R22). OFF is the record without service state. -/
structure Record where
  service : Option Service
  frontNumber : Word
  next : Word
  frontFill : Nat
  age : Nat
  dropped : Nat
deriving DecidableEq, Repr

/-- The live record after either reset (R24). -/
def Record.reset : Record where
  service := none
  frontNumber := 0#16
  next := 0#16
  frontFill := 0
  age := 0
  dropped := 0

/-! ## Staging Table (07_staged_configuration.md R123) -/

structure Staging where
  staged : Vector Descriptor 16
  /-- Bit w: the changed mark of window w. -/
  changed : BitVec 16
  hold : Bool
  rejected : Bool
deriving DecidableEq, Repr

def Staging.reset : Staging where
  staged := Vector.replicate 16 Descriptor.reset
  changed := 0#16
  hold := false
  rejected := false

/-! ## Port interfaces and classification (02_access_resolution.md) -/

/-- A window stall with the window whose condition holds the access (R27, R35, R36, R40). -/
inductive Stall where
  | retiring (w : Win)
  | releasePending (w : Win)
  | touchWait (w : Win) (line : Nat)
deriving DecidableEq, Repr

/-- The classes that need memory (R29). -/
inductive MemClass where
  | passThrough
  | intrusionRead (w : Win)
  | consumerRead (w : Win)
  | producerRead (w : Win)
  | producerWrite (w : Win) (masked : Bool)
deriving DecidableEq, Repr

/-- The classes of R28's table. -/
inductive AccessClass where
  | memory (m : MemClass)
  | stall (st : Stall)
  | tag (w : Win) (word : TagWord)
  | consumerWrite (w : Win)
  | intrusionWrite (w : Win)
deriving DecidableEq, Repr

/-- Where an access in progress stands. -/
inductive Phase where
  /-- It requests the memory port and waits for its grant (R29). -/
  | requesting (m : MemClass)
  /-- Its memory access or pair is under way (R29, R30). -/
  | granted (m : MemClass)
  /-- It is held in a window stall; `ticks` have begun since the stall start time (R26, R44; log entry 24). -/
  | stalled (st : Stall) (ticks : Nat)
  /-- It arrived between a SOFT_RESET's frame end and its step 2, and is classified there (R163). -/
  | unclassified
deriving DecidableEq, Repr

/-- An access in progress (R26). -/
structure Access where
  addr : Addr
  write : Bool
  lanes : Lanes
  data : Word
  phase : Phase
deriving DecidableEq, Repr

/-- A port interface (R26, R27). -/
structure PortIf where
  access : Option Access
  /-- The word driven on D15 to D0, from a read's completion until the bus cycle ends (R27). -/
  readData : Option Word
  /-- The processor's bus cycle is running: chip select with a strobe (R26, R161). -/
  busCycle : Bool
deriving DecidableEq, Repr

/-- An empty interface (R26), with no bus cycle running (log entry 23). -/
def PortIf.reset : PortIf where
  access := none
  readData := none
  busCycle := false

/-! ## Copy Engine (04_copy_engine.md) -/

/-- Which half of a word a copier is at (R74). -/
inductive Half where
  | read
  | write
deriving DecidableEq, Repr

/-- A line in copy: its fixed source and target bank bases and the word position with its half (R74, R75). -/
structure LineCopy where
  line : Nat
  source : Addr
  target : Addr
  word : Fin 16
  half : Half
deriving DecidableEq, Repr

/-- A channel's state with the items that state gives it (R74, R95). -/
inductive ChannelWork where
  | idle
  | serving (w : Win) (job : Job) (copy : Option LineCopy)
  | draining (w : Win) (copy : LineCopy)
deriving DecidableEq, Repr

/-- A channel (R74). -/
structure Channel where
  work : ChannelWork
  masked : Bool
  holding : Word
deriving DecidableEq, Repr

def Channel.reset : Channel where
  work := .idle
  masked := false
  holding := 0#16

/-- The touch copier's state (R74). -/
inductive TouchWork where
  | idle
  | copying (w : Win) (copy : LineCopy)
  | draining (w : Win) (copy : LineCopy)
deriving DecidableEq, Repr

/-- The touch copier (R74). -/
structure TouchCopier where
  work : TouchWork
  holding : Word
deriving DecidableEq, Repr

/-- An entry of the waiting list (R82). -/
structure WaitEntry where
  window : Win
  job : Job
  promoted : Bool
deriving DecidableEq, Repr

/-- An entry of the touch queue (R86). `writeEnded` marks the entry in service whose write the stall limit has ended:
the one entry that stands for no write (R86, R89). -/
structure TouchEntry where
  port : Port
  window : Win
  line : Nat
  inService : Bool
  writeEnded : Bool
deriving DecidableEq, Repr

structure CopyEngine where
  channels : Vector Channel 4
  touch : TouchCopier
  /-- The waiting list, its head first (R82). -/
  waiting : List WaitEntry
  /-- The touch queue, its oldest entry first (R86). -/
  queue : List TouchEntry
  /-- Each port's deferred touch request: a window and a line (R86). -/
  deferred : PerPort (Option (Win × Nat))
deriving DecidableEq, Repr

def CopyEngine.reset : CopyEngine where
  channels := Vector.replicate 4 Channel.reset
  touch := ⟨.idle, 0#16⟩
  waiting := []
  queue := []
  deferred := ⟨none, none⟩

/-! ## Memory Port Arbiter (08_memory_port_and_arbitration.md) -/

/-- The seven requestors (R138). -/
inductive Requestor where
  | port (p : Port)
  | touch
  | channel (c : Chan)
deriving DecidableEq, Repr

/-- A memory access alone, or a half of a read-modify-write pair; the read half keeps the write mask of the pair's
grant (R143). -/
inductive AccessKind where
  | single
  | pairRead (mask : Word)
  | pairWrite
deriving DecidableEq, Repr

/-- The memory access that holds the port (R136), with the access time of its grant (R137). -/
structure MemAccess where
  requestor : Requestor
  write : Bool
  addr : Addr
  lanes : Lanes
  data : Word
  kind : AccessKind
  time : Nat
deriving DecidableEq, Repr

structure Arbiter where
  /-- The port is free, or busy with one access (R136). -/
  access : Option MemAccess
  lastPort : Port
  portRun : Nat
  nextChannel : Chan
  runLimit : Nat
  accessTime : Nat
deriving DecidableEq, Repr

/-- The arbiter's reset values (R146). -/
def Arbiter.reset : Arbiter where
  access := none
  lastPort := .a
  portRun := 0
  nextChannel := 0
  runLimit := 4
  accessTime := 4

/-! ## Cycle Timer (06_cycle_boundaries.md R108) -/

structure Timer where
  running : Bool
  source : Source
  prescaler : Nat
  period : Nat
  pending : Option Nat
  guardTicks : Nat
  count : Nat
  sync : SyncState
  latched : Bool
  latchCount : Nat
  latchBoundaries : BitVec 32
  boundaries : BitVec 32
  syncOut : Bool
deriving DecidableEq, Repr

def Timer.reset : Timer where
  running := false
  source := .internal
  prescaler := 1000
  period := 250
  pending := none
  guardTicks := 8
  count := 0
  sync := .locked
  latched := false
  latchCount := 0
  latchBoundaries := 0#32
  boundaries := 0#32
  syncOut := false

/-! ## Notice Unit (09_notices_and_interrupt_lines.md R148) -/

/-- One port's notice state. -/
structure NoticeUnit where
  window : Vector NoticeSet 16
  global : GlobalSet
  /-- Bit set: the kind is masked. -/
  kindMask : BitVec 8
  /-- Bit w set: window w is masked. -/
  windowMask : BitVec 16
  /-- Bit set: the kind is routed to this port. -/
  routing : BitVec 6
  pollOrder : List Win
deriving DecidableEq, Repr

def NoticeUnit.reset : NoticeUnit where
  window := Vector.replicate 16 0#8
  global := 0#6
  kindMask := 0#8
  windowMask := 0#16
  routing := 0x3F#6
  pollOrder := [0, 1, 2, 3, 4, 5, 6, 7, 8, 9, 10, 11, 12, 13, 14, 15]

/-! ## State Control (10_operating_states_and_reset.md) -/

/-- The soft reset in progress (R162, R163). -/
inductive SoftReset where
  | none
  /-- Step 1: the memory access granted at the frame end runs to its completion. -/
  | draining
  /-- Steps 3 and 4: the marked ports' reclassified pass-through accesses are not yet complete. -/
  | finishing (awaited : PerPort Bool)
deriving DecidableEq, Repr

/-! ## The part -/

/-- The blocks that act on each other inside one event. -/
structure Part where
  ports : PerPort PortIf
  stallLimit : Nat
  live : Vector Descriptor 16
  records : Vector Record 16
  staging : Staging
  copy : CopyEngine
  arbiter : Arbiter
  timer : Timer
  notices : PerPort NoticeUnit
  opState : OpState
  softReset : SoftReset
deriving DecidableEq, Repr

/-- Every block at its reset values (R161). -/
def Part.reset : Part where
  ports := ⟨PortIf.reset, PortIf.reset⟩
  stallLimit := 0
  live := Vector.replicate 16 Descriptor.reset
  records := Vector.replicate 16 Record.reset
  staging := Staging.reset
  copy := CopyEngine.reset
  arbiter := Arbiter.reset
  timer := Timer.reset
  notices := ⟨NoticeUnit.reset, NoticeUnit.reset⟩
  opState := .standby
  softReset := .none

/-! ## Management Link (11_management_link.md) -/

/-- A frame being shifted: the whole bytes received, the bits of the byte in progress (first received first), the
reply bytes it shifts out and the position of the bit now driven on SDO (R166, R167; log entry 11). -/
structure Frame where
  bytes : List Byte
  bits : List Bool
  out : List Byte
  outPos : Nat
deriving DecidableEq, Repr

/-- SS# and the frame. -/
inductive FrameState where
  /-- SS# is high. -/
  | idle
  | shifting (f : Frame)
  /-- SS# is low in a frame that a reset discarded, or that began while the part was held in reset (R161). -/
  | discarded
deriving DecidableEq, Repr

structure Link where
  frame : FrameState
  /-- The reply buffer: empty, or a result byte and its response bytes (R167). -/
  reply : List Byte
deriving DecidableEq, Repr

def Link.reset : Link where
  frame := .idle
  reply := []

/-! ## The machine -/

/-- The shared SRAM: the byte lanes that differ from what an unlisted lane reads as, keys strictly rising
(Machine/Memory.lean; log entries 1 and 2). -/
abbrev Memory := List Host.Cell

/-- The whole machine. -/
structure State where
  part : Part
  mem : Memory
  link : Link
  /-- RESET# is held low (R161). -/
  resetLow : Bool
  /-- The power-on hold (R164). -/
  powerHold : Bool
  /-- The MODEL's own: the counter the free values of Config are applied to (log entry 3). -/
  freeIndex : Nat
  /-- The MODEL's own: the CLKIN periods the board's SRAM needs for an access (R137; log entry 4). -/
  sramTime : Nat
  /-- The commands that wait, first in, first out. -/
  pending : List Instr
deriving DecidableEq, Repr

/-- The machine right after reset: RESET# high, the power-on hold over, SS# high, no bus cycle running (log entry
23), every block at its reset values, memory with nothing listed, no command waiting. -/
def State.reset : State where
  part := Part.reset
  mem := []
  link := Link.reset
  resetLow := false
  powerHold := false
  freeIndex := 0
  sramTime := 0
  pending := []

/-- No command of this block stops it: the spec names no condition that does (INVENTORY.md, Faults). The type has
therefore no constructor. -/
inductive Fault where
deriving DecidableEq, Repr

/-- Why a command has no meaning. -/
inductive Refusal where
  /-- Raised by an arm of `exec` whose command has no meaning yet; no arm raises it now. Safe. -/
  | notModelled (mnemonic : String)
deriving DecidableEq, Repr

end Sys2Proof.Machine
end

