-- ==== Sys2Proof/Machine/LineSets.lean ====
section
/-!
DEFINITION. The operations on sets of lines (R15, R16).
-/

namespace Sys2Proof.Machine

/-- The line is in the set. -/
def lineIn (s : LineSet) (line : Nat) : Bool := s.getLsbD line

/-- The empty set. -/
def noLines : LineSet := 0#64

/-- Lines 0 to `length - 1` (R23). -/
def firstLines (length : Nat) : LineSet := BitVec.ofNat 64 (2 ^ length - 1)

/-- The set with one line joined. -/
def addLine (s : LineSet) (line : Nat) : LineSet := s ||| BitVec.twoPow 64 line

/-- The set with one line left out. -/
def dropLine (s : LineSet) (line : Nat) : LineSet := s &&& ~~~(BitVec.twoPow 64 line)

/-- Every line of either set. -/
def joinLines (s t : LineSet) : LineSet := s ||| t

/-- The lines of `s` that are not in `t`. -/
def lessLines (s t : LineSet) : LineSet := s &&& ~~~t

/-- How many lines the set holds. -/
def lineCount (s : LineSet) : Nat := (List.range 64).countP (fun l => lineIn s l)

/-- The lowest-numbered line of the set (R79). -/
def lowestLine? (s : LineSet) : Option Nat := (List.range 64).find? (fun l => lineIn s l)

end Sys2Proof.Machine
end

