-- ==== Sys2Proof/Machine/Memory.lean ====
section
/-!
DEFINITION. The shared SRAM as a canonical list of byte lanes, and the word accesses built from it in one place.
-/

namespace Sys2Proof.Machine

/-- What a byte lane that is not listed reads as (log entry 2: the spec gives memory no reset contents). -/
def Memory.unlisted : Byte := 0x00#8

/-- One byte lane. -/
def Memory.readByte : Memory → Nat → Byte
  | [], _ => Memory.unlisted
  | (k, v) :: rest, a => if k = a then v else Memory.readByte rest a

/-- Writes one byte lane and keeps the canonical form: the value an unlisted lane reads as is not listed. -/
def Memory.writeByte : Memory → Nat → Byte → Memory
  | [], a, v => if v = Memory.unlisted then [] else [(a, v)]
  | (k, x) :: rest, a, v =>
    if a < k then (if v = Memory.unlisted then (k, x) :: rest else (a, v) :: (k, x) :: rest)
    else if a = k then (if v = Memory.unlisted then rest else (a, v) :: rest)
    else (k, x) :: Memory.writeByte rest a v

/-- Every key of the list is above `a`. -/
def Memory.above (a : Nat) : Memory → Bool
  | [] => true
  | (k, _) :: rest => decide (a < k) && Memory.above a rest

/-- The canonical form: keys strictly rising, nothing listed that equals what an unlisted lane reads as. -/
def Memory.wf : Memory → Bool
  | [] => true
  | (k, v) :: rest => decide (v ≠ Memory.unlisted) && Memory.above k rest && Memory.wf rest

/-- The key of the lower lane of a word; the upper lane's key is one more (log entry 1). -/
def Memory.lowerKey (a : Addr) : Nat := 2 * a.toNat

/-- The key of the upper lane of a word. -/
def Memory.upperKey (a : Addr) : Nat := 2 * a.toNat + 1

/-- One word: the upper lane is D15 to D8. -/
def Memory.readWord (m : Memory) (a : Addr) : Word :=
  m.readByte (Memory.upperKey a) ++ m.readByte (Memory.lowerKey a)

/-- Writes the enabled lanes of a word; a lane that is not enabled keeps its byte (R31). -/
def Memory.writeWord (m : Memory) (a : Addr) (lanes : Lanes) (d : Word) : Memory :=
  let m1 := if lanes.lower then Memory.writeByte m (Memory.lowerKey a) (d.extractLsb' 0 8) else m
  if lanes.upper then Memory.writeByte m1 (Memory.upperKey a) (d.extractLsb' 8 8) else m1

end Sys2Proof.Machine
end

