-- ==== Sys2Proof/Machine/Operands.lean ====
section
/-!
DEFINITION. The operand forms: byte lanes and merged words, areas and bank addresses, the descriptor image, and the
multi-byte values of the management link.
-/

namespace Sys2Proof.Machine

/-- The 16 windows in ascending number. -/
def allWindows : List Win := [0, 1, 2, 3, 4, 5, 6, 7, 8, 9, 10, 11, 12, 13, 14, 15]

/-- The four channels in ascending number. -/
def allChannels : List Chan := [0, 1, 2, 3]

/-! ## Lanes and words -/

/-- The bits of the enabled lanes. -/
def laneBits (l : Lanes) : Word :=
  (if l.upper then 0xFF00#16 else 0#16) ||| (if l.lower then 0x00FF#16 else 0#16)

/-- Bit by bit: from `d` where `sel` is 1, from `old` where it is 0. -/
def pickBits (sel d old : Word) : Word := (d &&& sel) ||| (old &&& ~~~sel)

/-- The merged word of a masked write (R42's table). -/
def mergedWord (mask : Word) (lanes : Lanes) (data back : Word) : Word :=
  pickBits (mask &&& laneBits lanes) data back

/-- The word a read returns: the enabled lanes from memory, a disabled lane whatever the memory drives there (R31). -/
def readLanes (lanes : Lanes) (word open' : Word) : Word := pickBits (laneBits lanes) word open'

/-! ## Banks and areas -/

/-- The bank bases of a geometry: bank 0 is at the logical base (R3). -/
def Geometry.base (g : Geometry) : Bank → Addr
  | .b0 => g.logicalBase
  | .b1 => g.bank1Base
  | .b2 => g.bank2Base

/-- The bank whose base an address is (R77 names a line's fixed target by its base, R74). -/
def Geometry.bankAt (g : Geometry) (base : Addr) : Bank :=
  if base = g.logicalBase then .b0 else if base = g.bank1Base then .b1 else .b2

/-- A word of a line of a bank: the base plus 16 × line plus the word within the line (R30, R76). -/
def bankWord (base : Addr) (line word : Nat) : Addr := base + BitVec.ofNat 20 (16 * line + word)

/-- The address is one of the 16 × length words from the base (R3). -/
def inArea (base : Addr) (length : Nat) (a : Addr) : Bool :=
  decide (base.toNat ≤ a.toNat) && decide (a.toNat < base.toNat + 16 * length)

/-- The three areas of a window (R3). -/
inductive Area where
  | logical
  | bank1
  | bank2
deriving DecidableEq, Repr

/-- Which area of the window the address lies in. -/
def Geometry.areaOf (g : Geometry) (a : Addr) : Option Area :=
  if inArea g.logicalBase g.length a then some .logical
  else if inArea g.bank1Base g.length a then some .bank1
  else if inArea g.bank2Base g.length a then some .bank2
  else none

/-- The word offset of an address of the logical range (R28). -/
def Geometry.offset (g : Geometry) (a : Addr) : Nat := a.toNat - g.logicalBase.toNat

/-- The line of an address of the logical range (R28). -/
def Geometry.lineOf (g : Geometry) (a : Addr) : Nat := g.offset a / 16

/-- The word within its line (R28). -/
def Geometry.wordOf (g : Geometry) (a : Addr) : Nat := g.offset a % 16

/-- The tag word at a word offset: words 0 to 3 of line 0 (R5). -/
def tagWordAt : Nat → Option TagWord
  | 0 => some .seq
  | 1 => some .status
  | 2 => some .fill
  | 3 => some .control
  | _ => none

/-- The word offset of a tag word (R5). -/
def tagOffset : TagWord → Nat
  | .seq => 0
  | .status => 1
  | .fill => 2
  | .control => 3

/-- The bank without a role, if there is one: with a ready bank present there is none (R12). -/
def Service.spare (sv : Service) : Option Bank :=
  if sv.ready.isSome then none
  else [Bank.b0, Bank.b1, Bank.b2].find? (fun k => decide (k ≠ sv.front ∧ k ≠ sv.back))

/-- The latest bank: the ready bank when one is present, otherwise the front (R13). -/
def Service.latest (sv : Service) : Bank :=
  match sv.ready with
  | some r => r.bank
  | none => sv.front

/-- The consumer port of a window in service (R2). -/
def Service.consumer (sv : Service) : Port := sv.geometry.producer.other

/-- The back's stale set. -/
def Service.backStale (sv : Service) : LineSet := sv.stale.get sv.back

/-- The working geometry a descriptor gives (R11). -/
def Descriptor.geometry (d : Descriptor) : Geometry where
  producer := d.producer
  logicalBase := d.logicalBase
  length := d.length
  bank1Base := d.bank1Base
  bank2Base := d.bank2Base

/-- An occupied region of the set check: a first word and a length in words (R128). -/
structure Region where
  base : Nat
  words : Nat
deriving DecidableEq, Repr

/-- The three areas of a window as regions (R128). -/
def Geometry.regions (g : Geometry) : List Region :=
  [⟨g.logicalBase.toNat, 16 * g.length⟩, ⟨g.bank1Base.toNat, 16 * g.length⟩, ⟨g.bank2Base.toNat, 16 * g.length⟩]

/-- Two regions share no word. -/
def Region.disjoint (r t : Region) : Bool :=
  decide (r.base + r.words ≤ t.base) || decide (t.base + t.words ≤ r.base)

/-- Every two regions of the list are disjoint (R128). -/
def pairwiseDisjoint : List Region → Bool
  | [] => true
  | r :: rest => rest.all (fun t => Region.disjoint r t) && pairwiseDisjoint rest

/-! ## Values of the management link (R169: most significant byte first) -/

/-- The low byte of a number. -/
def byteOf (n : Nat) : Byte := BitVec.ofNat 8 n

/-- A 16-bit value as two bytes. -/
def bytes16 (w : BitVec 16) : List Byte := [w.extractLsb' 8 8, w.extractLsb' 0 8]

/-- A 24-bit value as three bytes. -/
def bytes24 (w : BitVec 24) : List Byte := [w.extractLsb' 16 8, w.extractLsb' 8 8, w.extractLsb' 0 8]

/-- A 32-bit value as four bytes. -/
def bytes32 (w : BitVec 32) : List Byte :=
  [w.extractLsb' 24 8, w.extractLsb' 16 8, w.extractLsb' 8 8, w.extractLsb' 0 8]

/-- Two bytes as a 16-bit value. -/
def word16 (h l : Byte) : BitVec 16 := h ++ l

/-- Three bytes as a 24-bit value. -/
def word24 (h m l : Byte) : BitVec 24 := h ++ m ++ l

/-- A window number from its byte: none above 15 (R170). -/
def windowArg (b : Byte) : Option Win := if h : b.toNat < 16 then some ⟨b.toNat, h⟩ else none

/-- A channel number from its byte: none above 3 (R170). -/
def channelArg (b : Byte) : Option Chan := if h : b.toNat < 4 then some ⟨b.toNat, h⟩ else none

/-- A port code: 0 Port A, 1 Port B, none otherwise (R172). -/
def portArg (b : Byte) : Option Port :=
  if b = 0#8 then some .a else if b = 1#8 then some .b else none

/-- A timer source code (R172). -/
def sourceArg (b : Byte) : Option Source :=
  if b = 0#8 then some .internal else if b = 1#8 then some .external else if b = 2#8 then some .command else none

/-! ## The descriptor image (R173) -/

/-- The image's 14 bytes. -/
def imageBytes (i : DescriptorImage) : List Byte :=
  [i.flags] ++ bytes24 i.logicalBase ++ [i.length] ++ bytes24 i.bank1Base ++ bytes24 i.bank2Base ++
    [i.pinLimit] ++ bytes16 i.writeMask

/-- The image of a descriptor (R173). -/
def Descriptor.image (d : Descriptor) : DescriptorImage where
  flags := (if d.enable then 0x01#8 else 0#8) ||| (if d.producer = .b then 0x02#8 else 0#8) |||
    (if d.policy = .explicit then 0x04#8 else 0#8) ||| (if d.skipEmpty then 0x08#8 else 0#8) |||
    (if d.tags then 0x10#8 else 0#8)
  logicalBase := d.logicalBase.setWidth 24
  length := byteOf d.length
  bank1Base := d.bank1Base.setWidth 24
  bank2Base := d.bank2Base.setWidth 24
  pinLimit := byteOf d.pinLimit
  writeMask := d.writeMask

/-- The descriptor an image holds, once the field checks have passed it (R173). -/
def imageDescriptor (i : DescriptorImage) : Descriptor where
  enable := i.flags.getLsbD 0
  producer := if i.flags.getLsbD 1 then .b else .a
  logicalBase := i.logicalBase.setWidth 20
  length := i.length.toNat
  bank1Base := i.bank1Base.setWidth 20
  bank2Base := i.bank2Base.setWidth 20
  policy := if i.flags.getLsbD 2 then .explicit else .boundary
  skipEmpty := i.flags.getLsbD 3
  tags := i.flags.getLsbD 4
  pinLimit := i.pinLimit.toNat
  writeMask := i.writeMask

/-- R8's Alignment and Extent checks of one base. -/
def baseOk (base : Addr24) (length : Byte) : Bool :=
  decide (base.toNat % 16 = 0) && decide (base.toNat + 16 * length.toNat ≤ 1048576)

/-- The field checks of R8's table, every row. -/
def imageFieldsOk (i : DescriptorImage) : Bool :=
  let d := imageDescriptor i
  baseOk i.logicalBase i.length && baseOk i.bank1Base i.length && baseOk i.bank2Base i.length &&
  decide (1 ≤ d.length) && decide (d.length ≤ 64) &&
  decide (d.pinLimit ≤ 15) &&
  !(decide (d.policy = .explicit) && !d.tags) &&
  !(decide (0 < d.pinLimit) && !d.tags) &&
  !(d.skipEmpty && decide (d.policy = .explicit)) &&
  decide (i.flags.extractLsb' 5 3 = 0#3)

end Sys2Proof.Machine
end

