-- ==== Sys2Proof/Machine/Flags.lean ====
section
/-!
DEFINITION. Every flag word of the part: notice bits and interrupt lines, the STATUS, FILL and CONTROL tag words, the
result bytes and the status bytes of the management replies (R152, R171, R174, R176, R177).
-/

namespace Sys2Proof.Machine

/-! ## Notices -/

/-- The bit of a window notice kind (R176). -/
def Notice.bit : Notice → Nat
  | .imageReady => 0
  | .dropped => 1
  | .pinExpired => 2
  | .backReady => 3
  | .overrun => 4
  | .violation => 5
  | .stallTimeout => 6
  | .retired => 7

/-- The bit of a global notice kind (R176). -/
def GlobalNotice.bit : GlobalNotice → Nat
  | .boundary => 0
  | .syncLost => 1
  | .syncRestored => 2
  | .configApplied => 3
  | .configRejected => 4
  | .standbyReached => 5

/-- The set with one kind added; a kind already in it stays in it once (R149). -/
def NoticeSet.add (s : NoticeSet) (k : Notice) : NoticeSet := s ||| BitVec.twoPow 8 k.bit

/-- The set without one kind. -/
def NoticeSet.drop (s : NoticeSet) (k : Notice) : NoticeSet := s &&& ~~~(BitVec.twoPow 8 k.bit)

/-- The kind is in the set. -/
def NoticeSet.has (s : NoticeSet) (k : Notice) : Bool := s.getLsbD k.bit

/-- The set with one global kind added. -/
def GlobalSet.add (s : GlobalSet) (k : GlobalNotice) : GlobalSet := s ||| BitVec.twoPow 6 k.bit

/-- The kind is in the set. -/
def GlobalSet.has (s : GlobalSet) (k : GlobalNotice) : Bool := s.getLsbD k.bit

/-- The window has a pending notice of an unmasked kind and is itself unmasked, so it holds the port's line (R152, R154). -/
def NoticeUnit.holdsLine (n : NoticeUnit) (w : Win) : Bool :=
  decide (n.window[w] &&& ~~~n.kindMask ≠ 0#8) && !n.windowMask.getLsbD w.val

/-- The interrupt line of a port (R152). -/
def NoticeUnit.line (n : NoticeUnit) : Bool :=
  allWindows.any (fun w => n.holdsLine w) || decide (n.global &&& n.routing ≠ 0#6)

/-! ## Tag words (R176) -/

/-- A bit at a place of a word. -/
def bitAt (b : Bool) (place : Nat) : Word := if b then BitVec.twoPow 16 place else 0#16

/-- The STATUS word of a port in the role it has for the window (R100, R176). -/
def statusWord (pendingSet : NoticeSet) (consumer : Bool) (sv : Service) : Word :=
  pendingSet.setWidth 16 |||
  (if consumer then
    bitAt sv.pin.isSome 8 ||| bitAt sv.initial 9 ||| bitAt sv.late 10 ||| bitAt sv.deferred 11
  else
    bitAt (decide (sv.backStale ≠ noLines)) 12 ||| bitAt sv.carried 13)

/-- The FILL word: bits 6 to 0 (R102, R176). -/
def fillWord (fill : Nat) : Word := (BitVec.ofNat 7 fill).setWidth 16

/-- The CONTROL word as it is read: the age above the dropped count (R103, R176). -/
def controlWord (age dropped : Nat) : Word := word16 (byteOf age) (byteOf dropped)

/-! ## Management replies -/

/-- The result byte (R177). -/
def Result.byte : Result → Byte
  | .ok => 0x01#8
  | .badArg => 0x02#8
  | .refused => 0x03#8
  | .busy => 0x04#8
  | .conflict => 0x05#8
  | .frameError => 0x06#8

/-- A reply with a result other than OK has no response bytes (R169). -/
def replyOf (r : Result) (response : List Byte) : List Byte :=
  if r = .ok then r.byte :: response else [r.byte]

/-- A bit at a place of a byte. -/
def byteBit (b : Bool) (place : Nat) : Byte := if b then BitVec.twoPow 8 place else 0#8

/-- The code of an operating state (R171). -/
def OpState.code : OpState → Byte
  | .standby => 0#8
  | .run => 1#8
  | .stopping => 2#8

/-- The code of a timer source (R171, R172). -/
def Source.code : Source → Byte
  | .internal => 0#8
  | .external => 1#8
  | .command => 2#8

/-- The code of a channel's state (R171). -/
def ChannelWork.code : ChannelWork → Byte
  | .idle => 0#8
  | .serving _ _ _ => 1#8
  | .draining _ _ => 2#8

/-- The code of a job (R171, R174). -/
def Job.code : Job → Byte
  | .catchUp => 0#8
  | .retire => 1#8

/-- "none" in a reply (R169). -/
def noneByte : Byte := 0xFF#8

/-- A bank field: 0, 1 or 2 (R174). -/
def bankCode : Bank → Byte
  | .b0 => 0#8
  | .b1 => 1#8
  | .b2 => 2#8

/-- A bank field that may be absent (R174). -/
def bankByte : Option Bank → Byte
  | some k => bankCode k
  | none => noneByte

end Sys2Proof.Machine
end

