-- ==== Sys2Proof/Machine/Ops.lean ====
section
/-!
DEFINITION. The named operations over the blocks of the part: reading and writing windows, ports and notices; and the
image protocol of one live record (01_windows_banks_and_images.md, 03_release_flip_and_pinning.md).
-/

namespace Sys2Proof.Machine

/-! ## Windows -/

/-- The live record of a window. -/
def Part.record (p : Part) (w : Win) : Record := p.records[w]

/-- Replaces the live record of a window. -/
def Part.setRecord (p : Part) (w : Win) (r : Record) : Part :=
  { p with records := p.records.set w.val r w.isLt }

/-- The service state of a window: none when it is OFF. -/
def Part.service (p : Part) (w : Win) : Option Service := (p.record w).service

/-- Replaces the service state of a window and leaves the rest of its record. -/
def Part.setService (p : Part) (w : Win) (sv : Service) : Part :=
  p.setRecord w { p.record w with service := some sv }

/-- The live descriptor of a window. -/
def Part.liveOf (p : Part) (w : Win) : Descriptor := p.live[w]

/-- The staged descriptor of a window. -/
def Part.stagedOf (p : Part) (w : Win) : Descriptor := p.staging.staged[w]

/-- The window state (R10). -/
def Record.state (r : Record) : WinState :=
  match r.service with
  | none => .off
  | some sv => if sv.retiring then .retiring else .live

/-- Every window is OFF. -/
def Part.allOff (p : Part) : Bool := allWindows.all (fun w => (p.service w).isNone)

/-! ## Notices (R149, R151) -/

/-- Notes a window notice to a port. -/
def Part.note (p : Part) (port : Port) (w : Win) (k : Notice) : Part :=
  let n := p.notices.get port
  { p with notices := p.notices.set port { n with window := n.window.set w.val (NoticeSet.add n.window[w] k) w.isLt } }

/-- Notes a window notice to both ports. -/
def Part.noteBoth (p : Part) (w : Win) (k : Notice) : Part := (p.note .a w k).note .b w k

/-- A port's notice state with a global notice recorded when its kind is routed to the port (R151). -/
def NoticeUnit.recordGlobal (n : NoticeUnit) (k : GlobalNotice) : NoticeUnit :=
  if n.routing.getLsbD k.bit then { n with global := GlobalSet.add n.global k } else n

/-- Notes a global notice (R151). -/
def Part.noteGlobal (p : Part) (k : GlobalNotice) : Part :=
  { p with notices := ⟨p.notices.a.recordGlobal k, p.notices.b.recordGlobal k⟩ }

/-- A port's notice state without the kinds its new role never receives (R150). -/
def NoticeUnit.clearRole (n : NoticeUnit) (w : Win) (producer : Bool) : NoticeUnit :=
  let s : NoticeSet := n.window[w]
  let s' : NoticeSet :=
    if producer then NoticeSet.drop (NoticeSet.drop (NoticeSet.drop s .imageReady) .dropped) .pinExpired
    else NoticeSet.drop (NoticeSet.drop s .backReady) .overrun
  { n with window := n.window.set w.val s' w.isLt }

/-- R150 at the enable of a window whose producer is `producer`. -/
def Part.clearRoleNotices (p : Part) (w : Win) (producer : Port) : Part :=
  { p with notices :=
      ⟨p.notices.a.clearRole w (decide (producer = .a)), p.notices.b.clearRole w (decide (producer = .b))⟩ }

/-- The interrupt line of a port: INT_A or INT_B (R152). -/
def Part.interrupt (p : Part) (port : Port) : Bool := (p.notices.get port).line

/-! ## Port interfaces -/

/-- The access in progress on a port. -/
def Part.accessOf (p : Part) (port : Port) : Option Access := (p.ports.get port).access

/-- Replaces the access in progress of a port. -/
def Part.setAccess (p : Part) (port : Port) (a : Access) : Part :=
  { p with ports := p.ports.set port { p.ports.get port with access := some a } }

/-- WAIT: asserted while an access is in progress that has not completed (R27). -/
def Part.wait (p : Part) (port : Port) : Bool := (p.accessOf port).isSome

/-- The access of a port completes: WAIT is released, and a read word is driven while the bus cycle lasts; when the
processor has ended its cycle already, the data is lost (R26, R27). -/
def Part.completeAccess (p : Part) (port : Port) (data : Option Word) : Part :=
  let i := p.ports.get port
  { p with ports := p.ports.set port { i with access := none, readData := if i.busCycle then data else none } }

/-! ## The image protocol of one record -/

/-- Saturation of the age and the dropped count (R17). -/
def saturate (n : Nat) : Nat := if n < 255 then n + 1 else 255

/-- The bank that becomes the new back at a release: the dropped ready bank, else the spare (R49). With no ready bank
the spare is there in every window in service (R12). -/
def Service.newBack (sv : Service) : Bank :=
  match sv.ready with
  | some r => r.bank
  | none => sv.spare.getD sv.back

/-- The stale sets after a release: every bank but the old back gains the old back's dirty lines (R15, R49). -/
def Service.staleAfterRelease (sv : Service) : PerBank LineSet :=
  let gain (k : Bank) : LineSet := if k = sv.back then sv.stale.get k else joinLines (sv.stale.get k) sv.dirty
  ⟨gain .b0, gain .b1, gain .b2⟩

/-- The record after a release (R49, R50). -/
def Record.released (r : Record) (sv : Service) : Record :=
  { r with
    next := r.next + 1#16
    dropped := if sv.ready.isSome then saturate r.dropped else r.dropped
    service := some
      { sv with
        ready := some ⟨sv.back, r.next, lineCount sv.dirty⟩
        back := sv.newBack
        stale := sv.staleAfterRelease
        dirty := noLines
        releasePending := false
        carried := false } }

/-- The record after a flip of the ready image, `late` when it is made at an unpin (R63). -/
def Record.flipped (r : Record) (sv : Service) (image : ReadyImage) (late : Bool) : Record :=
  { r with
    frontNumber := image.number
    frontFill := image.fill
    age := 0
    service := some
      { sv with
        front := image.bank
        ready := none
        initial := false
        deferred := false
        late := late } }

/-- The back's dirty lines join the back's own stale set, and the dirty set empties (R55, R68). -/
def Service.dirtyToStale (sv : Service) : Service :=
  { sv with
    stale := sv.stale.set sv.back (joinLines sv.backStale sv.dirty)
    dirty := noLines }

/-- The record set up at enable from the new live descriptor (R23). -/
def Record.enabled (d : Descriptor) : Record where
  service := some
    { retiring := false
      geometry := d.geometry
      front := .b0
      back := .b1
      ready := none
      stale := ⟨noLines, firstLines d.length, firstLines d.length⟩
      dirty := noLines
      pin := none
      initial := true
      late := false
      deferred := false
      releasePending := false
      carried := false }
  frontNumber := 0#16
  next := 1#16
  frontFill := 0
  age := 0
  dropped := 0

/-- A flip of a window's ready image, with IMAGE_READY noted to the consumer (R63, R149); no ready image, no flip. -/
def Part.flip (p : Part) (w : Win) (late : Bool) : Part :=
  match p.service w with
  | none => p
  | some sv =>
    match sv.ready with
    | none => p
    | some image => (p.setRecord w ((p.record w).flipped sv image late)).note sv.consumer w .imageReady

/-- The pin of a window ends without notice: not pinned, pin age 0 (R18). -/
def Part.endPin (p : Part) (w : Win) : Part :=
  match p.service w with
  | none => p
  | some sv => p.setService w { sv with pin := none }

/-- An unpin (R65): ignored when the window is not pinned; else the pin ends and a ready image flips at once, LATE. -/
def Part.unpin (p : Part) (w : Win) : Part :=
  match p.service w with
  | none => p
  | some sv => if sv.pin.isSome then (p.endPin w).flip w true else p

/-- A consumer's SEQ read pins the front when the live pin limit is above 0 and the window is not pinned (R18, R99). -/
def Part.pinBySeq (p : Part) (w : Win) : Part :=
  match p.service w with
  | none => p
  | some sv =>
    if decide (0 < (p.liveOf w).pinLimit) && sv.pin.isNone then p.setService w { sv with pin := some 0 } else p

/-- The record drops its service state: the window is OFF (R22). -/
def Part.dropService (p : Part) (w : Win) : Part := p.setRecord w { p.record w with service := none }

/-! ## Areas in use (R128) -/

/-- The window's regions on the list of a set check at a boundary: its working geometry while it is in service, its
staged areas when its mark is set and it is staged enabled (R128). -/
def Part.boundaryRegions (p : Part) (w : Win) : List Region :=
  match p.service w with
  | some sv => sv.geometry.regions
  | none =>
    if p.staging.changed.getLsbD w.val && (p.stagedOf w).enable then (p.stagedOf w).geometry.regions else []

/-- The window's regions on the list of a set check at RUN (R128). -/
def Part.runRegions (p : Part) (w : Win) : List Region :=
  if (p.stagedOf w).enable then (p.stagedOf w).geometry.regions else []

/-- The 16 words of a line's target (R128). -/
def LineCopy.targetRegion (cp : LineCopy) : Region := ⟨(bankWord cp.target cp.line 0).toNat, 16⟩

/-- The targets of the lines being drained (R95, R128). -/
def CopyEngine.drainRegions (e : CopyEngine) : List Region :=
  (allChannels.filterMap fun c =>
    match e.channels[c].work with
    | .draining _ cp => some cp.targetRegion
    | _ => none) ++
  (match e.touch.work with
    | .draining _ cp => [cp.targetRegion]
    | _ => [])

/-- The set check at an apply attempt (R128). -/
def Part.setCheckBoundary (p : Part) : Bool :=
  pairwiseDisjoint (allWindows.flatMap p.boundaryRegions ++ p.copy.drainRegions)

/-- The set check at RUN (R128). -/
def Part.setCheckRun (p : Part) : Bool :=
  pairwiseDisjoint (allWindows.flatMap p.runRegions ++ p.copy.drainRegions)

end Sys2Proof.Machine
end

