-- ==== Sys2Proof/Machine/CopyEngine.lean ====
section
/-!
DEFINITION. The Copy Engine: in-copy marks, the waiting list, the touch queue, line selection, the taking of jobs,
line ends and job completions (04_copy_engine.md); and the window events that act on it: enable, release, abandon,
retire (01, 03).
-/

namespace Sys2Proof.Machine

/-! ## Channels, marks and copy status -/

def Part.channel (p : Part) (c : Chan) : Channel := p.copy.channels[c]

def Part.setChannel (p : Part) (c : Chan) (ch : Channel) : Part :=
  { p with copy := { p.copy with channels := p.copy.channels.set c.val ch c.isLt } }

def Part.setChannelWork (p : Part) (c : Chan) (k : ChannelWork) : Part :=
  p.setChannel c { p.channel c with work := k }

def Part.setTouchWork (p : Part) (k : TouchWork) : Part :=
  { p with copy := { p.copy with touch := { p.copy.touch with work := k } } }

def Part.setWaiting (p : Part) (l : List WaitEntry) : Part := { p with copy := { p.copy with waiting := l } }

def Part.setQueue (p : Part) (l : List TouchEntry) : Part := { p with copy := { p.copy with queue := l } }

/-- The line a copier has in copy, drained or not. -/
def ChannelWork.lineCopy? : ChannelWork → Option LineCopy
  | .idle => none
  | .serving _ _ cp => cp
  | .draining _ cp => some cp

def TouchWork.lineCopy? : TouchWork → Option LineCopy
  | .idle => none
  | .copying _ cp => some cp
  | .draining _ cp => some cp

/-- The line of window `w` that a channel marks in copy: a draining line has no mark (R15, R77, R95). -/
def ChannelWork.mark (k : ChannelWork) (w : Win) : LineSet :=
  match k with
  | .serving w' _ (some cp) => if w' = w then addLine noLines cp.line else noLines
  | _ => noLines

/-- The line of window `w` that the touch copier marks in copy. -/
def TouchWork.mark (k : TouchWork) (w : Win) : LineSet :=
  match k with
  | .copying w' cp => if w' = w then addLine noLines cp.line else noLines
  | _ => noLines

/-- The lines of a window marked in copy by a channel. -/
def Part.channelMarks (p : Part) (w : Win) : LineSet :=
  joinLines (joinLines ((p.channel 0).work.mark w) ((p.channel 1).work.mark w))
    (joinLines ((p.channel 2).work.mark w) ((p.channel 3).work.mark w))

/-- The lines of a window marked in copy (R15). -/
def Part.inCopyLines (p : Part) (w : Win) : LineSet := joinLines (p.channelMarks w) (p.copy.touch.work.mark w)

/-- The channel that serves a window, with its job. -/
def Part.servedBy (p : Part) (w : Win) : Option (Chan × Job) :=
  allChannels.findSome? fun c =>
    match (p.channel c).work with
    | .serving w' job _ => if w' = w then some (c, job) else none
    | _ => none

/-- The window's entry on the waiting list. -/
def Part.entryOf (p : Part) (w : Win) : Option WaitEntry := p.copy.waiting.find? (fun e => e.window = w)

/-- The three forms of a window's copy status (R21). -/
inductive CopyStatus where
  | none
  | waiting (position : Nat) (job : Job) (promoted : Bool)
  | served (c : Chan) (job : Job)
deriving DecidableEq, Repr

/-- A window's copy status, read from the waiting list and the channels (R21; log entry 20). -/
def Part.copyStatus (p : Part) (w : Win) : CopyStatus :=
  match p.servedBy w with
  | some (c, job) => .served c job
  | Option.none =>
    match p.entryOf w with
    | some e => .waiting (p.copy.waiting.findIdx (fun e => e.window = w) + 1) e.job e.promoted
    | Option.none => .none

/-- The back is caught up: its stale set is empty and no line of the window is in copy (R48). -/
def Part.caughtUp (p : Part) (w : Win) (sv : Service) : Bool :=
  decide (sv.backStale = noLines) && decide (p.inCopyLines w = noLines)

/-! ## The waiting list -/

/-- A window joins at the tail, not promoted; a window already waiting or served does not join (R83). -/
def Part.join (p : Part) (w : Win) (job : Job) : Part :=
  if p.copyStatus w = .none then p.setWaiting (p.copy.waiting ++ [⟨w, job, false⟩]) else p

/-- The list with an entry placed directly behind the last promoted entry (R84: promoted entries stand ahead of the others). -/
def placePromoted (e : WaitEntry) : List WaitEntry → List WaitEntry
  | [] => [e]
  | x :: rest => if x.promoted then x :: placePromoted e rest else e :: x :: rest

/-- A promotion (R84): nothing moves for a promoted entry or a served window. -/
def Part.promote (p : Part) (w : Win) : Part :=
  match p.entryOf w with
  | none => p
  | some e =>
    if e.promoted then p
    else p.setWaiting
      (placePromoted { e with promoted := true } (p.copy.waiting.filter (fun x => x.window ≠ w)))

/-- A mask return: the entry at the head, with the promoted mark (R85). -/
def Part.giveBack (p : Part) (c : Chan) (w : Win) (job : Job) : Part :=
  let p1 := p.setChannelWork c .idle
  p1.setWaiting (⟨w, job, true⟩ :: p1.copy.waiting)

/-! ## Window events that place work -/

/-- Enable (R23, R150). -/
def Part.enable (p : Part) (w : Win) : Part :=
  let d := p.liveOf w
  ((p.setRecord w (Record.enabled d)).clearRoleNotices w d.producer).join w .catchUp

/-- A release performed (R49, R50). -/
def Part.release (p : Part) (w : Win) : Part :=
  match p.service w with
  | none => p
  | some sv =>
    let p1 := if sv.ready.isSome then p.note sv.consumer w .dropped else p
    let p2 := p1.setRecord w ((p.record w).released sv)
    if sv.staleAfterRelease.get sv.newBack = noLines then p2.note sv.geometry.producer w .backReady
    else p2.join w .catchUp

/-- An explicit release: performed at once when the back is caught up, else pending with a promotion (R48, R52). -/
def Part.explicitRelease (p : Part) (w : Win) : Part :=
  match p.service w with
  | none => p
  | some sv =>
    if p.caughtUp w sv then p.release w
    else (p.setService w { sv with releasePending := true }).promote w

/-- An abandon (R55). -/
def Part.abandon (p : Part) (w : Win) : Part :=
  match p.service w with
  | none => p
  | some sv =>
    let sv' := sv.dirtyToStale
    let p1 := p.setService w sv'
    if sv'.backStale = noLines then p1 else p1.join w .catchUp

/-! ## Retire -/

/-- The window's queued touch entries and deferred touch requests are removed; with `all`, its in-service entry too
(R68, R86, R90). -/
def Part.removeTouches (p : Part) (w : Win) (all : Bool) : Part :=
  let keep (d : Option (Win × Nat)) : Option (Win × Nat) :=
    match d with
    | some (w', l) => if w' = w then none else some (w', l)
    | none => none
  { p with copy := { p.copy with
      queue := p.copy.queue.filter (fun e => decide (e.window ≠ w) || (e.inService && !all))
      deferred := ⟨keep p.copy.deferred.a, keep p.copy.deferred.b⟩ } }

/-- What a channel does when a window becomes OFF at the retire event: it drains the line it has, or becomes IDLE (R69, R95). -/
def ChannelWork.drained (k : ChannelWork) (w : Win) : ChannelWork :=
  match k with
  | .serving w' _ (some cp) => if w' = w then .draining w cp else k
  | .serving w' _ none => if w' = w then .idle else k
  | _ => k

/-- The same for the touch copier (R69, R95). -/
def TouchWork.drained (k : TouchWork) (w : Win) : TouchWork :=
  match k with
  | .copying w' cp => if w' = w then .draining w cp else k
  | _ => k

/-- The window's copy work is ended at the retire event (R69, R95). -/
def Part.drainWindow (p : Part) (w : Win) : Part :=
  { p with copy := { p.copy with
      channels := p.copy.channels.map (fun ch => { ch with work := ch.work.drained w })
      touch := { p.copy.touch with work := p.copy.touch.work.drained w }
      waiting := p.copy.waiting.filter (fun e => e.window ≠ w) } }

/-- A channel's work with the window's job converted to RETIRE (R70, R93). -/
def ChannelWork.converted (k : ChannelWork) (w : Win) : ChannelWork :=
  match k with
  | .serving w' job cp => if w' = w then .serving w' .retire cp else .serving w' job cp
  | _ => k

/-- The window's copy work converts in place, or the window joins with RETIRE (R70, R93). -/
def Part.convertToRetire (p : Part) (w : Win) : Part :=
  if p.copyStatus w = .none then p.join w .retire
  else
    { p with copy := { p.copy with
        channels := p.copy.channels.map (fun ch => { ch with work := ch.work.converted w })
        waiting := p.copy.waiting.map (fun e => if e.window = w then { e with job := .retire } else e) } }

/-- Retire up to the window state RETIRING (R68): the pin ends, a ready image flips with LATE cleared, the unreleased
writes are discarded, RELEASE_PENDING clears. -/
def Part.retireRecord (p : Part) (w : Win) : Part :=
  let p1 := (p.endPin w).flip w false
  match p1.service w with
  | none => p1
  | some sv => p1.setService w { sv.dirtyToStale with releasePending := false, retiring := true }

/-- Retire (R68, R69, R70). Its held accesses are classified anew when the event settles. -/
def Part.retire (p : Part) (w : Win) : Part :=
  let p1 := p.retireRecord w
  match p1.service w with
  | none => p1
  | some sv =>
    if sv.stale.b0 = noLines then
      (((p1.removeTouches w true).drainWindow w).dropService w).noteBoth w .retired
    else (p1.removeTouches w false).convertToRetire w

/-- The timer stops as STANDBY is reached (R110). -/
def Timer.stop (t : Timer) : Timer :=
  { t with running := false, syncOut := false, period := t.pending.getD t.period, pending := none }

/-- The part reaches STANDBY from STOPPING when no window is in service (R160). -/
def Part.checkStandby (p : Part) : Part :=
  if p.opState = .stopping ∧ p.allOff = true then
    ({ p with opState := .standby, timer := p.timer.stop }).noteGlobal .standbyReached
  else p

/-! ## Jobs -/

/-- The job the window has with the Copy Engine. -/
def Part.jobOf (p : Part) (w : Win) : Option Job :=
  match p.servedBy w with
  | some (_, job) => some job
  | none => (p.entryOf w).map (fun e => e.job)

/-- The bank a job copies into (R75, R79). -/
def Service.jobTarget (sv : Service) : Job → Bank
  | .catchUp => sv.back
  | .retire => .b0

/-- The bank a job copies from (R75). -/
def Service.jobSource (sv : Service) : Job → Bank
  | .catchUp => sv.latest
  | .retire => sv.front

/-- The window's job is complete: the target's stale set is empty and no line of the window is in copy (R80, R81). -/
def Part.jobComplete (p : Part) (w : Win) : Bool :=
  match p.service w, p.jobOf w with
  | some sv, some job =>
    decide (sv.stale.get (sv.jobTarget job) = noLines) && decide (p.inCopyLines w = noLines)
  | _, _ => false

/-- A serving channel becomes IDLE, a waiting entry is removed (R80, R81). -/
def Part.endJob (p : Part) (w : Win) : Part :=
  { p with copy := { p.copy with
      channels := p.copy.channels.map fun ch =>
        match ch.work with
        | .serving w' _ _ => if w' = w then { ch with work := .idle } else ch
        | _ => ch
      waiting := p.copy.waiting.filter (fun e => e.window ≠ w) } }

/-- A CATCH_UP job completes (R80, R53). -/
def Part.completeCatchUp (p : Part) (w : Win) : Part :=
  let p1 := p.endJob w
  match p1.service w with
  | none => p1
  | some sv =>
    let p2 := p1.note sv.geometry.producer w .backReady
    if sv.releasePending then p2.release w else p2

/-- A RETIRE job completes: the window becomes OFF, and the part may reach STANDBY (R81, R71). -/
def Part.completeRetire (p : Part) (w : Win) : Part :=
  (((p.endJob w).dropService w).noteBoth w .retired).checkStandby

/-- The test of a window's job, and its completion (R80, R81). -/
def Part.testJob (p : Part) (w : Win) : Part :=
  if p.jobComplete w then
    match p.jobOf w with
    | some .catchUp => p.completeCatchUp w
    | some .retire => p.completeRetire w
    | none => p
  else p

/-! ## Line selection and the taking of jobs -/

/-- A copy of a line from one bank to another, at its start (R75, R76). -/
def Service.startLine (sv : Service) (source target : Bank) (line : Nat) : LineCopy where
  line := line
  source := sv.geometry.base source
  target := sv.geometry.base target
  word := 0
  half := .read

/-- A SERVING channel with no line in copy selects the lowest stale line of its target that is not in copy (R79). -/
def Part.selectLine (p : Part) (c : Chan) : Part :=
  match (p.channel c).work with
  | .serving w job none =>
    match p.service w with
    | some sv =>
      match lowestLine? (lessLines (sv.stale.get (sv.jobTarget job)) (p.inCopyLines w)) with
      | some line => p.setChannelWork c (.serving w job (some (sv.startLine (sv.jobSource job) (sv.jobTarget job) line)))
      | none => p
    | none => p
  | _ => p

/-- A channel's next step while it serves with no line in copy: masked, it gives its window back; else it selects (R79, R91). -/
def Part.channelStep (p : Part) (c : Chan) : Part :=
  match (p.channel c).work with
  | .serving w job none => if (p.channel c).masked then p.giveBack c w job else p.selectLine c
  | _ => p

/-- Every channel that serves with no line in copy takes its next step. From the highest number down, so that of
several windows given back the lower-numbered channel's stands first (R85, R91). -/
def Part.stepChannels (p : Part) : Part :=
  (((p.channelStep 3).channelStep 2).channelStep 1).channelStep 0

/-- The memory port is busy, or a request is outstanding. -/
def Part.portContended (p : Part) : Bool :=
  p.arbiter.access.isSome || p.copy.touch.work.lineCopy?.isSome ||
    allChannels.any (fun c => (p.channel c).work.lineCopy?.isSome) ||
    [Port.a, Port.b].any (fun q =>
      match p.accessOf q with
      | some a => match a.phase with | .requesting _ => true | _ => false
      | none => false)

/-- The lowest-numbered IDLE unmasked channel (R78). -/
def Part.freeChannel? (p : Part) : Option Chan :=
  allChannels.find? (fun c => decide ((p.channel c).work = .idle) && !(p.channel c).masked)

end Sys2Proof.Machine
end

