-- ==== Sys2Proof/Machine/Resolver.lean ====
section
/-!
DEFINITION. The Access Resolver and the Tag Block: classification (R28), the tag words (05_tag_block.md), touch
requests, and what an access does under each class that is not a grant (02_access_resolution.md).
-/

namespace Sys2Proof.Machine

/-! ## Classification -/

/-- The window in service and the area an address lies in; the areas are pairwise disjoint, so there is at most one (R28). -/
def Part.locate (p : Part) (a : Addr) : Option (Win × Area) :=
  allWindows.findSome? fun w =>
    match p.service w with
    | none => none
    | some sv => (sv.geometry.areaOf a).map (fun k => (w, k))

/-- R28's table from step 3 on, for an address of the logical range of a window in service. -/
def classifyLogical (sv : Service) (live : Descriptor) (w : Win) (port : Port) (addr : Addr) (write : Bool) :
    AccessClass :=
  let producer := decide (sv.geometry.producer = port)
  if sv.retiring then .stall (.retiring w)
  else if producer && sv.releasePending then .stall (.releasePending w)
  else
    match (if live.tags then tagWordAt (sv.geometry.offset addr) else none) with
    | some word => .tag w word
    | none =>
      if !producer then (if write then .consumerWrite w else .memory (.consumerRead w))
      else if !write then .memory (.producerRead w)
      else if lineIn sv.backStale (sv.geometry.lineOf addr) then .stall (.touchWait w (sv.geometry.lineOf addr))
      else .memory (.producerWrite w (decide (live.writeMask ≠ 0xFFFF#16)))

/-- The class of an access (R28). -/
def Part.classify (p : Part) (port : Port) (addr : Addr) (write : Bool) : AccessClass :=
  if p.opState = .standby then .memory .passThrough
  else
    match p.locate addr with
    | none => .memory .passThrough
    | some (w, area) =>
      match p.service w with
      | none => .memory .passThrough
      | some sv =>
        if area = .logical then classifyLogical sv (p.liveOf w) w port addr write
        else if write then .intrusionWrite w
        else .memory (.intrusionRead w)

/-! ## The touch queue -/

/-- The IDLE touch copier takes the oldest queued entry whose line is not in copy and begins the line (R87). -/
def Part.touchTake (p : Part) : Part :=
  match p.copy.touch.work with
  | .idle =>
    match p.copy.queue.find? (fun e => !e.inService && !lineIn (p.inCopyLines e.window) e.line) with
    | some e =>
      match p.service e.window with
      | some sv =>
        (p.setQueue (p.copy.queue.map (fun x => if x.port = e.port then { x with inService := true } else x))).setTouchWork
          (.copying e.window (sv.startLine sv.latest sv.back e.line))
      | none => p
    | none => p
  | _ => p

/-- A touch request: an entry at the tail of the queue, or, while the port's earlier entry stands, the port's deferred
touch request (R86, R87, R89). -/
def Part.touchRequest (p : Part) (port : Port) (w : Win) (line : Nat) : Part :=
  if p.copy.queue.any (fun e => e.port = port) then
    { p with copy := { p.copy with deferred := p.copy.deferred.set port (some (w, line)) } }
  else (p.setQueue (p.copy.queue ++ [⟨port, w, line, false, false⟩])).touchTake

/-- The line is in the stale set of the back of a LIVE window. -/
def Part.staleInBack (p : Part) (w : Win) (line : Nat) : Bool :=
  match p.service w with
  | some sv => !sv.retiring && lineIn sv.backStale line
  | none => false

/-- The touch copier drains a line (R95). -/
def Part.touchDraining (p : Part) : Bool :=
  match p.copy.touch.work with
  | .draining _ _ => true
  | _ => false

/-- A port's deferred touch request is made once its earlier entry's copy has ended (R86, R89; log entry 16). -/
def Part.makeDeferred (p : Part) (port : Port) : Part :=
  match p.copy.deferred.get port with
  | none => p
  | some (w, line) =>
    if p.touchDraining || p.copy.queue.any (fun e => e.port = port) then p
    else
      let p1 := { p with copy := { p.copy with deferred := p.copy.deferred.set port none } }
      if p.staleInBack w line then p1.touchRequest port w line else p1

/-- The touch entries and deferred requests that wait for a line end as it leaves the stale set (R77, R86, R88). -/
def Part.removeLine (p : Part) (w : Win) (line : Nat) : Part :=
  let keep (d : Option (Win × Nat)) : Option (Win × Nat) := if d = some (w, line) then none else d
  { p with copy := { p.copy with
      queue := p.copy.queue.filter (fun e => e.inService || !(decide (e.window = w) && decide (e.line = line)))
      deferred := ⟨keep p.copy.deferred.a, keep p.copy.deferred.b⟩ } }

/-! ## The Tag Block -/

/-- A port's pending window notices are cleared (R101). -/
def Part.clearNotices (p : Part) (port : Port) (w : Win) : Part :=
  let n := p.notices.get port
  { p with notices := p.notices.set port { n with window := n.window.set w.val 0#8 w.isLt } }

/-- The word a tag read returns (R99, R100, R102, R103). -/
def Part.tagValue (p : Part) (port : Port) (w : Win) (sv : Service) (word : TagWord) : Word :=
  let consumer := decide (sv.geometry.producer ≠ port)
  let r := p.record w
  match word with
  | .seq => if consumer then r.frontNumber else r.next
  | .status => statusWord ((p.notices.get port).window[w]) consumer sv
  | .fill => fillWord (if consumer then r.frontFill else lineCount sv.dirty)
  | .control => controlWord r.age r.dropped

/-- What a tag read changes: a consumer's SEQ read may pin, a STATUS read clears the port's notices (R99, R101). -/
def Part.tagReadEffect (p : Part) (port : Port) (w : Win) (sv : Service) (word : TagWord) : Part :=
  match word with
  | .seq => if sv.geometry.producer ≠ port then p.pinBySeq w else p
  | .status => p.clearNotices port w
  | .fill => p
  | .control => p

/-- A tag read is answered, and the access completes (R98). -/
def Part.tagRead (p : Part) (port : Port) (w : Win) (word : TagWord) : Part :=
  match p.service w with
  | none => p
  | some sv => (p.tagReadEffect port w sv word).completeAccess port (some (p.tagValue port w sv word))

/-- The command of a CONTROL write, by the role (R105). -/
def Part.controlWrite (p : Part) (port : Port) (w : Win) (sv : Service) (lanes : Lanes) (data : Word) : Part :=
  if lanes ≠ Lanes.both then p.note port w .violation
  else if sv.geometry.producer = port then
    (if data = 0x0001#16 then p.explicitRelease w
     else if data = 0x0002#16 then p.abandon w
     else p.note port w .violation)
  else (if data = 0x0003#16 then p.unpin w else p.note port w .violation)

/-- A tag write is taken or refused, and the access completes (R98, R104, R105). -/
def Part.tagWrite (p : Part) (port : Port) (w : Win) (word : TagWord) (lanes : Lanes) (data : Word) : Part :=
  match p.service w with
  | none => p
  | some sv =>
    let p1 := p.completeAccess port none
    match word with
    | .control => p1.controlWrite port w sv lanes data
    | _ => p1.note port w .violation

/-! ## What a class does before any grant -/

/-- The access `a` of a port goes on under a class: it requests the memory port, enters a window stall with a fresh
start time, is answered by the Tag Block, or is discarded with VIOLATION (R29, R33 to R40). -/
def Part.proceed (p : Part) (port : Port) (a : Access) (c : AccessClass) : Part :=
  match c with
  | .memory m => p.setAccess port { a with phase := .requesting m }
  | .stall (.touchWait w line) =>
    (p.setAccess port { a with phase := .stalled (.touchWait w line) 0 }).touchRequest port w line
  | .stall st => p.setAccess port { a with phase := .stalled st 0 }
  | .tag w word => if a.write then p.tagWrite port w word a.lanes a.data else p.tagRead port w word
  | .consumerWrite w => (p.completeAccess port none).note port w .violation
  | .intrusionWrite w => (p.completeAccess port none).note port w .violation

/-- The touch copier has the port's own write to the line in service: the entry that stands for it (R86). -/
def Part.touchServes (p : Part) (port : Port) (w : Win) (line : Nat) : Bool :=
  p.copy.queue.any fun e =>
    e.inService && !e.writeEnded && decide (e.port = port) && decide (e.window = w) && decide (e.line = line)

/-- The event that ends a port's window stall has come: the window is OFF, the pending release is gone, the line has left
the back's stale set (R29, R35, R36, R40). A retire ends a touch wait (R68, R86), but that of the write whose touch copy
is under way: it ends with the copy (R70, R90). -/
def Part.stallEnded (p : Part) (port : Port) : Stall → Bool
  | .retiring w =>
    match p.service w with
    | some sv => !sv.retiring
    | none => true
  | .releasePending w =>
    match p.service w with
    | some sv => !sv.releasePending
    | none => true
  | .touchWait w line =>
    match p.service w with
    | some sv => if sv.retiring then !p.touchServes port w line else !lineIn sv.backStale line
    | none => true

/-- A port's access whose stall has ended is classified anew (R29); not before step 2 of a soft reset (R47, R162; log
entry 15). -/
def Part.reclassify (p : Part) (port : Port) : Part :=
  match p.accessOf port with
  | none => p
  | some a =>
    match a.phase with
    | .stalled st _ =>
      if p.softReset ≠ .draining ∧ p.stallEnded port st = true then p.proceed port a (p.classify port a.addr a.write) else p
    | _ => p

end Sys2Proof.Machine
end

