-- ==== Sys2Proof/Machine/Arbiter.lean ====
section
/-!
DEFINITION. The Memory Port Arbiter: requests, grants and the order of choice (08_memory_port_and_arbitration.md);
what the completion of a memory access does to its requestor; and how every event settles: channels and the touch
copier take work, ended stalls are classified anew, and a free port is offered.
-/

namespace Sys2Proof.Machine

/-! ## Requests -/

/-- The port's access requests the memory port (R138). -/
def Part.portRequests (p : Part) (q : Port) : Bool :=
  match p.accessOf q with
  | some a => match a.phase with | .requesting _ => true | _ => false
  | none => false

/-- A channel requests while it has a line in copy, masked or draining too (R138). -/
def Part.channelRequests (p : Part) (c : Chan) : Bool := (p.channel c).work.lineCopy?.isSome

/-- The touch copier requests while it has a line in copy (R138). -/
def Part.touchRequests (p : Part) : Bool := p.copy.touch.work.lineCopy?.isSome

/-! ## Grants -/

/-- The memory access of a copier's next half word (R76). -/
def copierAccess (q : Requestor) (cp : LineCopy) (holding : Word) (time : Nat) : MemAccess :=
  match cp.half with
  | .read =>
    { requestor := q, write := false, addr := bankWord cp.source cp.line cp.word.val, lanes := Lanes.both
      data := 0#16, kind := .single, time := time }
  | .write =>
    { requestor := q, write := true, addr := bankWord cp.target cp.line cp.word.val, lanes := Lanes.both
      data := holding, kind := .single, time := time }

/-- A grant to the touch copier changes no choice state (R141). -/
def Part.grantTouch (p : Part) : Part :=
  match p.copy.touch.work.lineCopy? with
  | none => p
  | some cp =>
    { p with arbiter := { p.arbiter with
        access := some (copierAccess .touch cp p.copy.touch.holding p.arbiter.accessTime) } }

/-- A grant to a channel: the run of port grants ends, the rotation moves past the channel (R141). -/
def Part.grantChannel (p : Part) (c : Chan) : Part :=
  match (p.channel c).work.lineCopy? with
  | none => p
  | some cp =>
    { p with arbiter := { p.arbiter with
        access := some (copierAccess (.channel c) cp (p.channel c).holding p.arbiter.accessTime)
        portRun := 0
        nextChannel := c + 1 } }

/-- The bank that serves a class that goes to a window's bank (R37, R39, R41, R42). -/
def Service.servingBank (sv : Service) (m : MemClass) (line : Nat) : Bank :=
  match m with
  | .consumerRead _ => sv.front
  | .producerRead _ => if lineIn sv.backStale line then sv.latest else sv.back
  | _ => sv.back

/-- The memory address of a class, chosen at its grant (R30). -/
def Part.grantAddr (p : Part) (a : Access) (m : MemClass) : Addr :=
  let inWindow (w : Win) : Addr :=
    match p.service w with
    | some sv =>
      bankWord (sv.geometry.base (sv.servingBank m (sv.geometry.lineOf a.addr))) (sv.geometry.lineOf a.addr)
        (sv.geometry.wordOf a.addr)
    | none => a.addr
  match m with
  | .passThrough => a.addr
  | .intrusionRead _ => a.addr
  | .consumerRead w => inWindow w
  | .producerRead w => inWindow w
  | .producerWrite w _ => inWindow w

/-- The memory access granted to a port (R31, R42, R136, R143): a masked write begins with the read half of its pair. -/
def Part.portAccess (p : Part) (q : Port) (a : Access) (m : MemClass) : MemAccess :=
  let own : MemAccess :=
    { requestor := .port q, write := a.write, addr := p.grantAddr a m, lanes := a.lanes, data := a.data
      kind := .single, time := p.arbiter.accessTime }
  match m with
  | .producerWrite w true => { own with write := false, lanes := Lanes.both, kind := .pairRead (p.liveOf w).writeMask }
  | _ => own

/-- What a grant does to a window's record and notices: a producer write adds its line to the dirty set, a bank
intrusion read notes VIOLATION (R30, R33, R41, R42). -/
def Part.grantEffect (p : Part) (q : Port) (a : Access) (m : MemClass) : Part :=
  match m with
  | .intrusionRead w => p.note q w .violation
  | .producerWrite w _ =>
    match p.service w with
    | some sv => p.setService w { sv with dirty := addLine sv.dirty (sv.geometry.lineOf a.addr) }
    | none => p
  | _ => p

/-- A port grant (R141, R142). -/
def Part.grantPort (p : Part) (q : Port) (a : Access) (m : MemClass) : Part :=
  let p1 := (p.grantEffect q a m).setAccess q { a with phase := .granted m }
  { p1 with arbiter := { p1.arbiter with
      access := some (p.portAccess q a m)
      lastPort := q
      portRun := if p.arbiter.portRun < 15 then p.arbiter.portRun + 1 else 15 } }

/-! ## The taking of jobs (R78) -/

/-- A channel's request made while the port is free and no other request is outstanding is chosen at once (R139; log
entry 13); `before` says whether there was one before the channel took its job. -/
def Part.chooseAtOnce (p : Part) (before : Bool) (c : Chan) : Part := if before then p else p.grantChannel c

/-- The channel takes the head of the list: SERVING with its job, tested for completion, else selecting a line (R78, R80). -/
def Part.takeHead (p : Part) (c : Chan) (e : WaitEntry) (rest : List WaitEntry) : Part :=
  let p1 := (p.setWaiting rest).setChannelWork c (.serving e.window e.job none)
  if p1.jobComplete e.window then p1.testJob e.window else p1.selectLine c

/-- IDLE unmasked channels take entries from the head of the list, lowest-numbered first (R78). -/
def Part.takeJobs : Nat → Part → Part
  | 0, p => p
  | fuel + 1, p =>
    match p.freeChannel?, p.copy.waiting with
    | some c, e :: rest =>
      Part.takeJobs fuel ((p.takeHead c e rest).chooseAtOnce p.portContended c)
    | _, _ => p

/-- Enough rounds for every channel and every entry. -/
def takeFuel : Nat := 40

/-! ## The order of choice (R140) -/

/-- The channels in the order of the rotation (R140). -/
def rotationFrom (c : Chan) : List Chan := [c, c + 1, c + 2, c + 3]

/-- The channel chosen by rotation (R140). -/
def Part.rotated? (p : Part) : Option Chan :=
  (rotationFrom p.arbiter.nextChannel).find? (fun c => p.channelRequests c)

/-- The port of rows 3 and 4 (R140). -/
def Part.selectedPort? (p : Part) : Option Port :=
  match p.portRequests .a, p.portRequests .b with
  | true, true => some p.arbiter.lastPort.other
  | true, false => some .a
  | false, true => some .b
  | false, false => none

/-- A port's request is withdrawn: its access makes none, until it goes on under its new class (R142). -/
def Part.withdraw (p : Part) (q : Port) (a : Access) : Part := p.setAccess q { a with phase := .unclassified }

/-- The choice of the arbiter, with the resolver's check of a selected port: a request that no longer needs memory is
withdrawn, and the arbiter chooses again among the remaining requests (R140, R142). Answers the part after the grant,
and the withdrawn accesses with their new classes, in their order. At most two requests can be withdrawn in one choice. -/
def Part.choose : Nat → Part → Part × List (Port × Access × AccessClass)
  | 0, p => (p, [])
  | fuel + 1, p =>
    if p.touchRequests then (p.grantTouch, [])
    else
      match p.rotated?, decide (p.arbiter.runLimit ≤ p.arbiter.portRun) with
      | some c, true => (p.grantChannel c, [])
      | rotated, _ =>
        match p.selectedPort? with
        | some q =>
          match p.accessOf q with
          | some a =>
            match p.classify q a.addr a.write with
            | .memory m => (p.grantPort q a m, [])
            | c =>
              let r := Part.choose fuel (p.withdraw q a)
              (r.1, (q, a, c) :: r.2)
          | none => (p, [])
        | none =>
          match rotated with
          | some c => (p.grantChannel c, [])
          | none => (p, [])

/-- The withdrawn accesses go on under their new classes (R142). -/
def Part.goOn (p : Part) (withdrawn : List (Port × Access × AccessClass)) : Part :=
  withdrawn.foldl (fun r x => r.proceed x.1 x.2.1 x.2.2) p

/-! ## Settling an event -/

/-- After the effects of an event on the records: channels with no line take their next step, IDLE channels take jobs,
the touch copier takes an entry, deferred touch requests are made, ended stalls are classified anew (the order of R77;
log entry 14). -/
def Part.round (p : Part) : Part :=
  let p1 := (Part.takeJobs takeFuel p.stepChannels).touchTake
  (((p1.makeDeferred .a).makeDeferred .b).reclassify .a).reclassify .b

/-- A free memory port is offered (R139); not before step 2 of a soft reset, which takes no further grant (R162). What
the withdrawn accesses bring about is taken after the choice: a port left free is then offered again (R139, R142). -/
def Part.offerIn : Nat → Part → Part
  | 0, p => p
  | fuel + 1, p =>
    if p.arbiter.access = none ∧ p.softReset ≠ .draining then
      let r := p.choose 3
      if r.2.isEmpty then r.1 else Part.offerIn fuel (r.1.goOn r.2).round.round
    else p

/-- The offer of the memory port at the end of an event. What a withdrawal brings about makes no request that is withdrawn
in its turn, so the second choice is the last. -/
def Part.offer (p : Part) : Part := Part.offerIn 3 p

/-- An event settles: what a reclassified access itself brings about settles in a second round, then a free port is
offered. -/
def Part.settle (p : Part) : Part := p.round.round.offer

/-! ## Completions of memory accesses -/

def ChannelWork.withCopy (k : ChannelWork) (cp : LineCopy) : ChannelWork :=
  match k with
  | .idle => .idle
  | .serving w job _ => .serving w job (some cp)
  | .draining w _ => .draining w cp

def TouchWork.withCopy (k : TouchWork) (cp : LineCopy) : TouchWork :=
  match k with
  | .idle => .idle
  | .copying w _ => .copying w cp
  | .draining w _ => .draining w cp

/-- A copied line leaves the stale set of the bank that was its fixed target (R77). -/
def Part.lineLeaves (p : Part) (w : Win) (cp : LineCopy) : Part :=
  match p.service w with
  | none => p
  | some sv =>
    let k := sv.geometry.bankAt cp.target
    p.setService w { sv with stale := sv.stale.set k (dropLine (sv.stale.get k) cp.line) }

/-- A channel's line end (R77, R95). -/
def Part.channelLineEnd (p : Part) (c : Chan) : Part :=
  match (p.channel c).work with
  | .serving w job (some cp) =>
    (((p.setChannelWork c (.serving w job none)).lineLeaves w cp).removeLine w cp.line).testJob w
  | .draining _ _ => p.setChannelWork c .idle
  | _ => p

/-- The touch copier's line end (R77, R89, R95). -/
def Part.touchLineEnd (p : Part) : Part :=
  match p.copy.touch.work with
  | .copying w cp =>
    let p1 := (p.setTouchWork .idle).lineLeaves w cp
    ((p1.setQueue (p1.copy.queue.filter (fun e => !e.inService))).removeLine w cp.line).testJob w
  | .draining _ _ => p.setTouchWork .idle
  | .idle => p

/-- A channel receives the completion of its word (R76). -/
def Part.channelWordDone (p : Part) (c : Chan) (write : Bool) (word : Word) : Part :=
  let ch := p.channel c
  match ch.work.lineCopy? with
  | none => p
  | some cp =>
    if write then
      (if cp.word = 15 then p.channelLineEnd c
       else p.setChannelWork c (ch.work.withCopy { cp with word := cp.word + 1, half := .read }))
    else p.setChannel c { ch with work := ch.work.withCopy { cp with half := .write }, holding := word }

/-- The touch copier receives the completion of its word (R76). -/
def Part.touchWordDone (p : Part) (write : Bool) (word : Word) : Part :=
  let t := p.copy.touch
  match t.work.lineCopy? with
  | none => p
  | some cp =>
    if write then
      (if cp.word = 15 then p.touchLineEnd
       else p.setTouchWork (t.work.withCopy { cp with word := cp.word + 1, half := .read }))
    else
      { p with copy := { p.copy with
          touch := { work := t.work.withCopy { cp with half := .write }, holding := word } } }

/-- The finished requestor receives its completion (R136, R139). -/
def Part.deliver (p : Part) (m : MemAccess) (word : Word) : Part :=
  match m.requestor with
  | .port q => p.completeAccess q (if m.write then none else some word)
  | .touch => p.touchWordDone m.write word
  | .channel c => p.channelWordDone c m.write word

/-- The same at the completion that ends step 1 of a soft reset: a copier's read word reaches its holding word, and no
copier takes a next step (R96, R146, R162). -/
def Part.deliverLast (p : Part) (m : MemAccess) (word : Word) : Part :=
  match m.requestor with
  | .port q => p.completeAccess q (if m.write then none else some word)
  | .touch =>
    if m.write then p
    else { p with copy := { p.copy with touch := { p.copy.touch with holding := word } } }
  | .channel c => if m.write then p else p.setChannel c { p.channel c with holding := word }

/-- The completion of a memory access, taken whole before the port is offered again (R139). -/
def Part.finishAccess (p : Part) (m : MemAccess) (word : Word) : Part :=
  let p1 := (p.deliver m word).round.round
  { p1 with arbiter := { p1.arbiter with access := none } }.offer

/-- The second half of a pair begins in the event of the first half's completion, without a choice (R143). -/
def Part.secondHalf (p : Part) (m : MemAccess) (mask word : Word) : Part :=
  match m.requestor with
  | .port q =>
    match p.accessOf q with
    | some a =>
      { p with arbiter := { p.arbiter with
          access := some { m with
            write := true
            data := mergedWord mask a.lanes a.data word
            kind := .pairWrite } } }
    | none => p
  | _ => p

/-- The pins of the memory port: address, chip select with its strobe, lanes and data while an access holds it (R136). -/
def Part.memoryPins (p : Part) : Option (Addr × Bool × Lanes × Option Word) :=
  p.arbiter.access.map fun m => (m.addr, m.write, m.lanes, if m.write then some m.data else none)

end Sys2Proof.Machine
end

