-- ==== Sys2Proof/Machine/Boundaries.lean ====
section
/-!
DEFINITION. The Cycle Timer and the boundary: ticks, sources, the apply of the stage at a boundary, and the four steps
of a window's boundary handling (03_release_flip_and_pinning.md R57 to R62, 06_cycle_boundaries.md,
07_staged_configuration.md R128 to R133).
-/

namespace Sys2Proof.Machine

/-! ## The boundary handling of one window (R57) -/

/-- An overrun (R59). -/
def Part.overrun (p : Part) (w : Win) (sv : Service) : Part :=
  (p.note sv.geometry.producer w .overrun).setService w { sv with carried := true }

/-- Step 1: release or overrun, under BOUNDARY policy (R58). -/
def Part.boundaryRelease (p : Part) (w : Win) : Part :=
  match p.service w with
  | none => p
  | some sv =>
    if (p.liveOf w).policy = .explicit then p
    else if sv.releasePending || !p.caughtUp w sv then p.overrun w sv
    else if (p.liveOf w).skipEmpty && decide (sv.dirty = noLines) then p
    else p.release w

/-- Step 2: the pin ages, and ends at the limit with PIN_EXPIRED (R60). -/
def Part.boundaryPin (p : Part) (w : Win) : Part :=
  match p.service w with
  | none => p
  | some sv =>
    match sv.pin with
    | none => p
    | some age =>
      if (p.liveOf w).pinLimit ≤ age + 1 then (p.endPin w).note sv.consumer w .pinExpired
      else p.setService w { sv with pin := some (age + 1) }

/-- Step 4 for a front that did not change: the age rises by 1, and from 255 it stays (R62). -/
def Part.ageStep (p : Part) (w : Win) : Part :=
  p.setRecord w { p.record w with age := saturate (p.record w).age }

/-- Steps 3 and 4: a ready image flips, or is deferred while the window is pinned; the age (R61, R62). -/
def Part.boundaryFlip (p : Part) (w : Win) : Part :=
  match p.service w with
  | none => p
  | some sv =>
    if sv.ready.isSome then
      (if sv.pin.isSome then (p.setService w { sv with deferred := true }).ageStep w else p.flip w false)
    else p.ageStep w

/-- The four steps in order (R57). -/
def Part.handleBoundary (p : Part) (w : Win) : Part := ((p.boundaryRelease w).boundaryPin w).boundaryFlip w

/-! ## The apply at a boundary -/

/-- A marked window's record is RETIRING (R129, stage 1). -/
def Part.applyDeferred (p : Part) : Bool :=
  allWindows.any fun w =>
    p.staging.changed.getLsbD w.val &&
      (match p.service w with | some sv => sv.retiring | none => false)

/-- The live descriptors after an apply: each marked window's takes its staged one whole (R131). -/
def Part.appliedLive (p : Part) : Vector Descriptor 16 :=
  Vector.ofFn fun w : Win => if p.staging.changed.getLsbD w.val then p.stagedOf w else p.liveOf w

/-- Every marked staged descriptor becomes live, the marks clear, CONFIG_APPLIED is noted (R131). -/
def Part.applyStage (p : Part) : Part :=
  ({ p with live := p.appliedLive, staging := { p.staging with changed := 0#16 } }).noteGlobal .configApplied

/-- A rejected attempt (R130). -/
def Part.rejectStage (p : Part) : Part :=
  ({ p with staging := { p.staging with rejected := true } }).noteGlobal .configRejected

/-- The apply attempt of a boundary (R129): the part after it, and the marks of the windows it applied. -/
def Part.applyAttempt (p : Part) : Part × BitVec 16 :=
  if p.opState = .run ∧ p.staging.hold = false ∧ p.staging.rejected = false ∧ p.staging.changed ≠ 0#16 then
    if p.applyDeferred then (p, 0#16)
    else if p.setCheckBoundary then (p.applyStage, p.staging.changed)
    else (p.rejectStage, 0#16)
  else (p, 0#16)

/-- An apply of pin limit 0 or of tags off ends a pin without notice, before step 1 (R133). -/
def Part.endPinByApply (p : Part) (w : Win) : Part :=
  if (p.liveOf w).pinLimit = 0 || !(p.liveOf w).tags then p.endPin w else p

/-- What a boundary does to one window, `applied` when the apply of this boundary made its staged descriptor live
(R57, R113, R131). -/
def Part.windowAtBoundary (p : Part) (applied : Bool) (w : Win) : Part :=
  match p.service w with
  | none => if applied && (p.liveOf w).enable then p.enable w else p
  | some sv =>
    if sv.retiring then p
    else if applied then
      (if (p.liveOf w).enable then (p.endPinByApply w).handleBoundary w else p.retire w)
    else p.handleBoundary w

/-- The boundary is delivered: the apply first, then every window in ascending number (R83, R113). -/
def Part.deliverBoundary (p : Part) : Part :=
  let r := p.applyAttempt
  allWindows.foldl (fun q w => q.windowAtBoundary (r.2.getLsbD w.val) w) r.1

/-! ## The timer -/

/-- A reload: the count restarts and a pending period becomes the period (R111). -/
def Timer.reload (t : Timer) : Timer :=
  { t with count := 0, period := t.pending.getD t.period, pending := none }

/-- SYNC_OUT after a boundary: high in INTERNAL and COMMAND, as it was in EXTERNAL (R120). -/
def Timer.pulse (t : Timer) : Bool :=
  match t.source with
  | .internal => true
  | .command => true
  | .external => t.syncOut

/-- A boundary's effect on the timer (R113, R120). -/
def Timer.boundary (t : Timer) : Timer :=
  { t.reload with boundaries := t.boundaries + 1#32, syncOut := t.pulse }

/-- A boundary, whatever made it (R113). -/
def Part.boundary (p : Part) : Part :=
  (({ p with timer := p.timer.boundary }).noteGlobal .boundary).deliverBoundary

/-- Which boundary, if any, falls at a tick that brings the count to `count` (R114, R115, R116, R118). -/
inductive Due where
  | nothing
  | period
  | loss
  | flywheel
deriving DecidableEq, Repr

def Timer.due (t : Timer) (count : Nat) : Due :=
  match t.source, t.sync with
  | .internal, _ => if t.period ≤ count then .period else .nothing
  | .external, .locked => if t.period + t.guardTicks ≤ count then .loss else .nothing
  | .external, .flywheel => if t.period ≤ count then .flywheel else .nothing
  | .command, _ => .nothing

/-- The count at a tick: it rises by 1; in COMMAND it stops rising at 65535 (R109, R118). -/
def Timer.nextCount (t : Timer) : Nat :=
  match t.source with
  | .command => if t.count < 65535 then t.count + 1 else t.count
  | _ => t.count + 1

/-- A tick's effect on the timer before any boundary: the count, and SYNC_OUT goes low (R109, R120). -/
def Timer.tick (t : Timer) : Timer := { t with count := t.nextCount, syncOut := false }

/-- The sync state becomes FLYWHEEL and SYNC_LOST is noted (R115). -/
def Part.loseLock (p : Part) : Part :=
  ({ p with timer := { p.timer with sync := .flywheel } }).noteGlobal .syncLost

/-- The boundary a tick makes, if it is due (R114, R115, R116). -/
def Part.dueBoundary (p : Part) (d : Due) : Part :=
  match d with
  | .nothing => p
  | .period => p.boundary.settle
  | .flywheel => p.boundary.settle
  | .loss => p.boundary.loseLock.settle

/-! ## Window stalls at a tick -/

/-- A tick begins: a stall that stands has one more tick (R44). -/
def PortIf.tick (i : PortIf) : PortIf :=
  match i.access with
  | some a =>
    match a.phase with
    | .stalled st n => { i with access := some { a with phase := .stalled st (n + 1) } }
    | _ => i
  | none => i

def Part.advanceStalls (p : Part) : Part := { p with ports := ⟨p.ports.a.tick, p.ports.b.tick⟩ }

/-- The stall of a port that has reached the limit in force (R44); none is ended before step 2 of a soft reset (R47;
log entry 15). -/
def Part.stallDue (p : Part) (q : Port) : Option Stall :=
  match p.accessOf q with
  | some a =>
    match a.phase with
    | .stalled st n =>
      if p.softReset ≠ .draining ∧ 0 < p.stallLimit ∧ p.stallLimit ≤ n then some st else none
    | _ => none
  | none => none

/-- The window whose condition holds the access. -/
def Stall.window : Stall → Win
  | .retiring w => w
  | .releasePending w => w
  | .touchWait w _ => w

/-- A timed-out touch wait: the port's queued entry and its deferred request are removed; an entry in service stays, with
its write ended (R45, R86, R89, R90). -/
def Part.dropTouch (p : Part) (q : Port) : Part :=
  { p with copy := { p.copy with
      queue := (p.copy.queue.filter (fun e => decide (e.port ≠ q) || e.inService)).map
        (fun e => if e.port = q then { e with writeEnded := true } else e)
      deferred := p.copy.deferred.set q none } }

/-- A stall that reached the limit ends its access without memory: a read returns 0xFFFF, a write is discarded,
STALL_TIMEOUT is noted (R45). -/
def Part.timeout (p : Part) (q : Port) : Part :=
  match p.stallDue q, p.accessOf q with
  | some st, some a =>
    let p1 := (p.completeAccess q (if a.write then none else some 0xFFFF#16)).note q st.window .stallTimeout
    match st with
    | .touchWait _ _ => p1.dropTouch q
    | _ => p1
  | _, _ => p

/-- Both ports' stalls that are due end (R45). -/
def Part.timeouts (p : Part) : Part := (p.timeout .a).timeout .b

/-- The same for the ports marked in `first`. -/
def Part.timeoutsOf (p : Part) (first : PerPort Bool) : Part :=
  let p1 := if first.a then p.timeout .a else p
  if first.b then p1.timeout .b else p1

/-- Some port's stall is due. -/
def Part.anyStallDue (p : Part) : Bool := (p.stallDue .a).isSome || (p.stallDue .b).isSome

/-! ## The tick -/

/-- A tick while the timer runs (R109). When a stall limit and a boundary are both due at it, `first` says for each
port whether the limit is taken before the boundary (R46: the order is that of the two at the stalled access; log entry
6). -/
def Part.tick (p : Part) (first : PerPort Bool) : Part :=
  if p.timer.running then
    let d := p.timer.due p.timer.nextCount
    let p1 := ({ p with timer := p.timer.tick }).advanceStalls
    if d = .nothing then p1.timeouts
    else if p1.anyStallDue then ((p1.timeoutsOf first).dueBoundary d).timeouts
    else p1.dueBoundary d
  else p

/-! ## SYNC_IN (R115, R116) -/

/-- LOCKED is restored and SYNC_RESTORED noted (R116). -/
def Part.restoreLock (p : Part) : Part :=
  ({ p with timer := { p.timer with sync := .locked } }).noteGlobal .syncRestored

/-- A rising edge on SYNC_IN, looked at in EXTERNAL while the timer runs (R115, R116). -/
def Part.syncEdge (p : Part) : Part :=
  if p.timer.running = true ∧ p.timer.source = .external then
    match p.timer.sync with
    | .locked => if p.timer.count ≤ 1 then p else p.boundary.settle
    | .flywheel =>
      if p.timer.count ≤ p.timer.guardTicks then ({ p with timer := p.timer.reload }).restoreLock
      else p.boundary.restoreLock.settle
  else p

/-! ## Entering and leaving RUN -/

/-- The timer begins to run (R110). -/
def Timer.start (t : Timer) : Timer := { t with running := true, count := 0, sync := .locked, syncOut := false }

/-- The apply at RUN, once the set check has passed (R134). -/
def Part.enterRun (p : Part) : Part :=
  let p1 : Part := { p with
    live := p.staging.staged
    staging := { p.staging with changed := 0#16, rejected := false }
    opState := .run
    timer := p.timer.start }
  (allWindows.foldl (fun q w => if (q.liveOf w).enable then q.enable w else q) p1).settle

/-- STANDBY taken in RUN: STOPPING is entered, every LIVE window retires in ascending number, and the part reaches
STANDBY when none is left in service (R159, R160). -/
def Part.enterStopping (p : Part) : Part :=
  let p1 : Part := { p with opState := .stopping }
  let retireLive (q : Part) (w : Win) : Part :=
    match q.service w with
    | some sv => if sv.retiring then q else q.retire w
    | none => q
  (allWindows.foldl retireLive p1).checkStandby.settle

end Sys2Proof.Machine
end

