-- ==== Sys2Proof/Machine/Link.lean ====
section
/-!
DEFINITION. The management link: the bytes of every command's frame and their reading back (11_management_link.md,
Commands), the judgement of a frame at its end (R168), the bits on SDO (R166, R167), and the replies that read (R170,
R171, R174).
-/

namespace Sys2Proof.Machine

/-! ## Frames -/

/-- The bytes of a command's frame: the command byte and its argument bytes (11_management_link.md, Commands; R172, R173). -/
def frameBytes : LinkCommand → List Byte
  | .nop => [0x00#8]
  | .getStatus => [0x01#8]
  | .setWindow w i => [0x10#8, w] ++ imageBytes i
  | .getWindow w sel => [0x11#8, w, sel]
  | .getWindowState w => [0x12#8, w]
  | .clearStage => [0x13#8]
  | .hold => [0x14#8]
  | .unhold => [0x15#8]
  | .run => [0x20#8]
  | .standby => [0x21#8]
  | .softReset => [0x2F#8]
  | .setTiming source prescaler guardTicks => [0x30#8, source] ++ bytes16 prescaler ++ [guardTicks]
  | .setPeriod period => [0x31#8] ++ bytes16 period
  | .boundary => [0x32#8]
  | .latchTimer => [0x33#8]
  | .readTimer => [0x34#8]
  | .getChannel c => [0x40#8, c]
  | .setChannels m => [0x41#8, m]
  | .setLimits runLimit stallLimit accessTime => [0x42#8, runLimit, stallLimit, accessTime]
  | .setNoticeMasks port kinds windows routing => [0x50#8, port, kinds] ++ bytes16 windows ++ [routing]
  | .poll port => [0x51#8, port]
  | .readGlobal port => [0x52#8, port]

/-- A descriptor image from its 14 bytes (R173). -/
def parseImage : List Byte → Option DescriptorImage
  | [f, l2, l1, l0, len, x2, x1, x0, y2, y1, y0, pinLimit, m1, m0] =>
    some
      { flags := f
        logicalBase := word24 l2 l1 l0
        length := len
        bank1Base := word24 x2 x1 x0
        bank2Base := word24 y2 y1 y0
        pinLimit := pinLimit
        writeMask := word16 m1 m0 }
  | _ => none

/-- SET_WINDOW's arguments: the window and the image. -/
def parseSetWindow : List Byte → Option LinkCommand
  | w :: image => (parseImage image).map (fun i => .setWindow w i)
  | [] => none

/-- A NOP frame may be longer than its command byte, so that it can carry a reply's response bytes out (R167, and frame
4 of the chapter's worked sequence): the bytes after it are 0x00 (log entry 28). -/
def parseNop (args : List Byte) : Option LinkCommand := if args.all (fun b => decide (b = 0x00#8)) then some .nop else none

/-- The command of a command byte with its argument bytes; none where the byte is not in the command table or the
count of argument bytes is not the command's (R168). -/
def parseCommand (code : Nat) (args : List Byte) : Option LinkCommand :=
  match code, args with
  | 0x00, args => parseNop args
  | 0x01, [] => some .getStatus
  | 0x10, args => parseSetWindow args
  | 0x11, [w, sel] => some (.getWindow w sel)
  | 0x12, [w] => some (.getWindowState w)
  | 0x13, [] => some .clearStage
  | 0x14, [] => some .hold
  | 0x15, [] => some .unhold
  | 0x20, [] => some .run
  | 0x21, [] => some .standby
  | 0x2F, [] => some .softReset
  | 0x30, [source, p1, p0, g] => some (.setTiming source (word16 p1 p0) g)
  | 0x31, [p1, p0] => some (.setPeriod (word16 p1 p0))
  | 0x32, [] => some .boundary
  | 0x33, [] => some .latchTimer
  | 0x34, [] => some .readTimer
  | 0x40, [c] => some (.getChannel c)
  | 0x41, [m] => some (.setChannels m)
  | 0x42, [r, s, t] => some (.setLimits r s t)
  | 0x50, [port, kinds, w1, w0, routing] => some (.setNoticeMasks port kinds (word16 w1 w0) routing)
  | 0x51, [port] => some (.poll port)
  | 0x52, [port] => some (.readGlobal port)
  | _, _ => none

/-- The command of a whole frame's bytes. -/
def parseFrame : List Byte → Option LinkCommand
  | [] => none
  | code :: args => parseCommand code.toNat args

/-- The link's judgement of a frame at its end (R168). -/
inductive Verdict where
  | ignored
  | malformed
  | taken (c : LinkCommand)
deriving DecidableEq, Repr

/-- R168's table, its first case that applies. -/
def judgeFrame (bytes : List Byte) (bits : List Bool) : Verdict :=
  match bytes with
  | [] => .ignored
  | b :: rest =>
    if bits ≠ [] then .malformed
    else
      match parseFrame (b :: rest) with
      | some c => .taken c
      | none => .malformed

/-! ## Bits on the wire (R166) -/

/-- A byte from its bits, the first received the most significant (R166). -/
def byteOfBits (bits : List Bool) : Byte := byteOf (bits.foldl (fun n b => 2 * n + (if b then 1 else 0)) 0)

/-- A rising SCK edge samples SDI into the byte in progress; the eighth bit makes it a whole byte (R166). -/
def Frame.sample (f : Frame) (sdi : Bool) : Frame :=
  let bits := f.bits ++ [sdi]
  if bits.length = 8 then { f with bytes := f.bytes ++ [byteOfBits bits], bits := [] } else { f with bits := bits }

/-- A falling SCK edge drives the next reply bit (R166). -/
def Frame.advance (f : Frame) : Frame := { f with outPos := f.outPos + 1 }

/-- The bit a frame drives: the reply's bytes from the first, most significant bit first, then zeros (R166, R167). -/
def Frame.outBit (f : Frame) : Bool := (f.out.getD (f.outPos / 8) 0#8).getLsbD (7 - f.outPos % 8)

/-- A frame as SS# falls: both parts empty, the reply buffer to be shifted out from its first bit (R166, R167). -/
def Frame.start (reply : List Byte) : Frame := ⟨[], [], reply, 0⟩

/-- The part is held in reset by RESET# or by the power-on hold (R161, R164). -/
def State.held (s : State) : Bool := s.resetLow || s.powerHold

/-- SDO: driven while SS# is low and the part is not held in reset (R161, R166). -/
def State.sdo (s : State) : Option Bool :=
  if s.held then none
  else
    match s.link.frame with
    | .idle => none
    | .shifting f => some f.outBit
    | .discarded => some false

/-- A frame that ends now is taken: not while the part is held in reset, not within a soft reset (R161, R163). -/
def State.takesFrames (s : State) : Bool := !s.held && decide (s.part.softReset = .none)

/-- SS# rises. `whole` is the verdict on a frame given whole, with SS# high before it; a frame that FRAME_START began
is judged by what it holds; a discarded frame is not taken (R161, R168; log entry 10). -/
def State.verdict (s : State) (whole : Verdict) : Verdict :=
  if s.takesFrames then
    match s.link.frame with
    | .idle => whole
    | .shifting f => judgeFrame f.bytes f.bits
    | .discarded => .ignored
  else .ignored

/-- The state with SS# high. -/
def State.frameEnded (s : State) : State := { s with link := { s.link with frame := .idle } }

/-- The reply buffer is replaced (R167). -/
def State.withReply (s : State) (r : List Byte) : State := { s with link := { s.link with reply := r } }

/-- A reply of a result alone. -/
def State.result (s : State) (r : Result) : State := s.withReply (replyOf r [])

/-- A command that only changes the part, and replies OK. -/
def State.carryOut (s : State) (f : Part → Part) : State := ({ s with part := f s.part }).result .ok

/-! ## The replies that read -/

/-- The reply bytes of GET_STATUS (R171). -/
def statusReply (p : Part) : List Byte :=
  [p.opState.code,
   byteBit (decide (p.timer.sync = .flywheel)) 0 ||| byteBit p.timer.pending.isSome 1,
   byteBit p.staging.hold 0 ||| byteBit p.staging.rejected 1] ++
  bytes16 p.staging.changed ++
  [(p.channel 0).work.code ||| (p.channel 1).work.code <<< 2 ||| (p.channel 2).work.code <<< 4 |||
     (p.channel 3).work.code <<< 6,
   byteBit (p.channel 0).masked 0 ||| byteBit (p.channel 1).masked 1 ||| byteBit (p.channel 2).masked 2 |||
     byteBit (p.channel 3).masked 3]

/-- Bytes 20 and 21 of GET_WINDOW_STATE: the pin and the flags (R174). -/
def serviceFlagBytes (sv : Service) : List Byte :=
  [byteBit sv.pin.isSome 7 ||| byteOf (sv.pin.getD 0 % 16),
   byteBit sv.initial 0 ||| byteBit sv.late 1 ||| byteBit sv.deferred 2 ||| byteBit sv.releasePending 3 |||
     byteBit sv.carried 4]

/-- Bytes 22 to 24 of GET_WINDOW_STATE: the copy status (R174). -/
def copyStatusBytes : CopyStatus → List Byte
  | .none => [0#8, noneByte, 0#8]
  | .waiting position job promoted => [1#8, byteOf position, job.code ||| byteBit promoted 1]
  | .served c job => [2#8, byteOf c.val, job.code]

/-- The reply bytes of GET_WINDOW_STATE (R174). -/
def windowStateReply (p : Part) (w : Win) : List Byte :=
  let r := p.record w
  match r.service with
  | none =>
    [0#8, noneByte, noneByte, noneByte, noneByte, noneByte] ++ bytes16 r.frontNumber ++ [0#8, 0#8] ++ bytes16 r.next ++
      [byteOf r.frontFill, 0#8, 0#8, 0#8, 0#8, 0#8, byteOf r.age, byteOf r.dropped, 0#8, 0#8, 0#8, noneByte, 0#8]
  | some sv =>
    [if sv.retiring then 2#8 else 1#8, bankCode sv.front, bankByte (sv.ready.map (fun i => i.bank)),
     bankCode sv.back, bankByte sv.spare, bankCode sv.latest] ++
    bytes16 r.frontNumber ++ bytes16 ((sv.ready.map (fun i => i.number)).getD 0#16) ++ bytes16 r.next ++
    [byteOf r.frontFill, byteOf ((sv.ready.map (fun i => i.fill)).getD 0),
     byteOf (lineCount sv.stale.b0), byteOf (lineCount sv.stale.b1), byteOf (lineCount sv.stale.b2),
     byteOf (lineCount sv.dirty), byteOf r.age, byteOf r.dropped] ++
    serviceFlagBytes sv ++ copyStatusBytes (p.copyStatus w)

/-- The reply bytes of GET_CHANNEL (R171). -/
def channelReply (ch : Channel) : List Byte :=
  [ch.work.code, if ch.masked then 1#8 else 0#8] ++
  (match ch.work with
    | .idle => [noneByte, noneByte, noneByte]
    | .serving w job cp => [byteOf w.val, job.code, (cp.map (fun l => byteOf l.line)).getD noneByte]
    | .draining w cp => [byteOf w.val, noneByte, byteOf cp.line]) ++
  bytes16 ch.holding

/-- The reply bytes of READ_TIMER (R122, R171). -/
def timerReply (t : Timer) : List Byte :=
  [byteBit t.latched 0 ||| byteBit (decide (t.sync = .flywheel)) 1, t.source.code] ++
  bytes24 (BitVec.ofNat 24 (if t.latched then t.latchCount else t.count)) ++
  bytes32 (if t.latched then t.latchBoundaries else t.boundaries) ++
  bytes16 (BitVec.ofNat 16 t.period) ++ bytes16 (BitVec.ofNat 16 (t.pending.getD 0))

end Sys2Proof.Machine
end

