-- ==== Sys2Proof/Machine/Resets.lean ====
section
/-!
DEFINITION. The resets: the RESET pin and the power-on hold, and the four steps of a soft reset; and the completion of
a memory access at the shared SRAM, which carries a soft reset on (10_operating_states_and_reset.md, R139, R143, R146).
-/

namespace Sys2Proof.Machine

/-! ## The memory access at the SRAM -/

/-- The board's SRAM is slower than the access time of the grant (R137). -/
def State.slowSram (s : State) (m : MemAccess) : Bool := decide (m.time < s.sramTime)

/-- The word an access reads: the enabled lanes from memory; a disabled lane, and everything a memory too slow drives,
is a free value (R31, R137; log entries 3 and 4). -/
def State.accessWord (s : State) (m : MemAccess) : Word :=
  if s.slowSram m then Config.freeWord s.freeIndex
  else readLanes m.lanes (s.mem.readWord m.addr) (Config.freeWord s.freeIndex)

/-- Memory after an access: a write changes its enabled lanes; a write to a memory too slow may not take (R30, R31,
R137; log entry 25). -/
def State.accessMem (s : State) (m : MemAccess) : Memory :=
  if m.write && (!s.slowSram m || Config.freeChoice s.freeIndex) then s.mem.writeWord m.addr m.lanes m.data else s.mem

/-- The next free value (log entry 3). -/
def State.useFree (s : State) : State := { s with freeIndex := s.freeIndex + 1 }

/-! ## Soft reset (R162, R163) -/

/-- A port interface at step 2: an access still in progress is a pass-through that requests the memory port, its stall
time gone; the bus cycle and a read word still driven are the processor's and stay (R47, R162 step 3). -/
def PortIf.afterSoftReset (i : PortIf) : PortIf :=
  { i with access := i.access.map (fun a => { a with phase := .requesting .passThrough }) }

/-- Steps 2 and 3: every block takes its reset values, and the accesses still in progress request the memory port under
the arbiter's reset state; step 4 waits for them (R162). -/
def Part.softResetBlocks (p : Part) : Part :=
  ({ Part.reset with
      ports := ⟨p.ports.a.afterSoftReset, p.ports.b.afterSoftReset⟩
      softReset := .finishing ⟨p.ports.a.access.isSome, p.ports.b.access.isSome⟩ }).offer

/-- Step 4: with no access left to wait for, the reply buffer takes OK (R162). -/
def State.softResetCheck (s : State) : State :=
  if s.part.softReset = .finishing ⟨false, false⟩ then
    ({ s with part := { s.part with softReset := .none } }).result .ok
  else s

/-- Steps 2 to 4 in one event (R162). -/
def State.softResetApply (s : State) : State := ({ s with part := s.part.softResetBlocks }).softResetCheck

/-- SOFT_RESET is taken at its frame end: the reply buffer is emptied, and step 2 follows at once when the memory port
is free (R162, R167). -/
def State.softResetTaken (s : State) : State :=
  let s1 := s.withReply []
  if s.part.arbiter.access.isSome then { s1 with part := { s1.part with softReset := .draining } }
  else s1.softResetApply

/-- The port whose access completes is no longer waited for (R162 step 4). -/
def awaitedAfter (awaited : PerPort Bool) (q : Requestor) : PerPort Bool :=
  match q with
  | .port x => awaited.set x false
  | _ => awaited

/-- A completion within step 4. -/
def Part.finishAwaited (p : Part) (m : MemAccess) (word : Word) (awaited : PerPort Bool) : Part :=
  { p.finishAccess m word with softReset := .finishing (awaitedAfter awaited m.requestor) }

/-- What the completion of the access `m`, which read `word`, does outside the SRAM (R139, R143, R162). -/
def State.completed (s : State) (m : MemAccess) (word : Word) : State :=
  match m.kind with
  | .pairRead mask => { s with part := s.part.secondHalf m mask word }
  | _ =>
    match s.part.softReset with
    | .none => { s with part := s.part.finishAccess m word }
    | .draining => ({ s with part := s.part.deliverLast m word }).softResetApply
    | .finishing awaited => ({ s with part := s.part.finishAwaited m word awaited }).softResetCheck

/-- The completion of the memory access that holds the port; with the port free there is none (R136, R139). -/
def State.memoryCompletion (s : State) : State :=
  match s.part.arbiter.access with
  | none => s
  | some m => ({ s with mem := s.accessMem m }).useFree.completed m (s.accessWord m)

/-- The completion at hand is the one that ends step 1 of a soft reset (R162 step 2). -/
def State.softResetDue (s : State) : Bool :=
  decide (s.part.softReset = .draining) &&
    (match s.part.arbiter.access with
      | some m => (match m.kind with | .pairRead _ => false | _ => true)
      | none => false)

/-- The completion at hand is that of the last access that step 4 of a soft reset waits for (R162 step 4). -/
def State.softResetEnding (s : State) : Bool :=
  match s.part.softReset, s.part.arbiter.access with
  | .finishing awaited, some m => decide (awaitedAfter awaited m.requestor = ⟨false, false⟩)
  | _, _ => false

/-! ## The RESET pin and power (R161, R164) -/

/-- Memory at the RESET pin: the word of a write under way keeps its old value or takes its new one, which of them is a
free value (R47, R96, R146, R161; log entry 3). -/
def State.resetMem (s : State) : Memory :=
  match s.part.arbiter.access with
  | some m =>
    if m.write && Config.freeChoice s.freeIndex then s.mem.writeWord m.addr m.lanes m.data else s.mem
  | none => s.mem

/-- A port interface at the RESET pin: empty, nothing driven; the processor's bus cycle goes on (R26, R161). -/
def PortIf.afterReset (i : PortIf) : PortIf := { PortIf.reset with busCycle := i.busCycle }

/-- Every block at its reset values (R161). -/
def Part.afterReset (p : Part) : Part := { Part.reset with ports := ⟨p.ports.a.afterReset, p.ports.b.afterReset⟩ }

/-- A frame under way at the reset is discarded (R161, R166). -/
def FrameState.afterReset : FrameState → FrameState
  | .idle => .idle
  | .shifting _ => .discarded
  | .discarded => .discarded

/-- The link after a reset: the reply buffer is empty (R161, R167). -/
def Link.afterReset (l : Link) : Link := { frame := l.frame.afterReset, reply := [] }

/-- RESET# falls (R161). -/
def State.resetPin (s : State) : State :=
  ({ s with part := s.part.afterReset, mem := s.resetMem, link := s.link.afterReset, resetLow := true }).useFree

/-- Power is applied: the power-on hold begins, and the SRAM holds what it powers up with (R164; log entries 2 and 27). -/
def State.powerUp (s : State) : State :=
  { s with part := s.part.afterReset, mem := [], link := s.link.afterReset, powerHold := true }

end Sys2Proof.Machine
end

