-- ==== Sys2Proof/Machine/Management.lean ====
section
/-!
DEFINITION. What each management command does when it is taken at its frame end, one definition a command, and the
frame end itself (11_management_link.md R166 to R172, with the rule of each command).
-/

namespace Sys2Proof.Machine

/-! ## Status and the stage -/

/-- GET_STATUS (R171). -/
def State.takeGetStatus (s : State) : State := s.withReply (replyOf .ok (statusReply s.part))

/-- The geometry lock: a window in service and enabled live, staged enabled with another producer or geometry (R125). -/
def Part.geometryLocked (p : Part) (w : Win) (d : Descriptor) : Bool :=
  (p.service w).isSome && (p.liveOf w).enable && d.enable && decide (d.geometry ≠ (p.liveOf w).geometry)

/-- The staged descriptor is replaced, the mark set and REJECTED cleared (R124). -/
def Part.stageDescriptor (p : Part) (w : Win) (d : Descriptor) : Part :=
  { p with staging := { p.staging with
      staged := p.staging.staged.set w.val d w.isLt
      changed := p.staging.changed ||| BitVec.twoPow 16 w.val
      rejected := false } }

/-- SET_WINDOW (R124). -/
def State.takeSetWindow (s : State) (window : Byte) (image : DescriptorImage) : State :=
  match windowArg window with
  | none => s.result .badArg
  | some w =>
    if !imageFieldsOk image then s.result .badArg
    else if s.part.geometryLocked w (imageDescriptor image) then s.result .refused
    else s.carryOut (fun p => p.stageDescriptor w (imageDescriptor image))

/-- The descriptor GET_WINDOW selects: 0 staged, 1 live (R170). -/
def Part.selected (p : Part) (w : Win) (selection : Byte) : Option Descriptor :=
  if selection = 0#8 then some (p.stagedOf w) else if selection = 1#8 then some (p.liveOf w) else none

/-- GET_WINDOW (R170, R173). -/
def State.takeGetWindow (s : State) (window selection : Byte) : State :=
  match windowArg window with
  | none => s.result .badArg
  | some w =>
    match s.part.selected w selection with
    | none => s.result .badArg
    | some d => s.withReply (replyOf .ok (imageBytes d.image))

/-- GET_WINDOW_STATE (R25, R174). -/
def State.takeGetWindowState (s : State) (window : Byte) : State :=
  match windowArg window with
  | none => s.result .badArg
  | some w => s.withReply (replyOf .ok (windowStateReply s.part w))

/-- The stage takes the live descriptors, without marks or REJECTED (R126). -/
def Part.clearStage (p : Part) : Part :=
  { p with staging := { p.staging with staged := p.live, changed := 0#16, rejected := false } }

/-- CLEAR_STAGE (R126). -/
def State.takeClearStage (s : State) : State := s.carryOut Part.clearStage

/-- The hold flag is set (R127). -/
def Part.hold (p : Part) : Part := { p with staging := { p.staging with hold := true } }

/-- HOLD (R127). -/
def State.takeHold (s : State) : State := s.carryOut Part.hold

/-- The hold flag and REJECTED are cleared (R127). -/
def Part.unhold (p : Part) : Part := { p with staging := { p.staging with hold := false, rejected := false } }

/-- UNHOLD (R127). -/
def State.takeUnhold (s : State) : State := s.carryOut Part.unhold

/-! ## Operating states -/

/-- RUN (R134, R158). -/
def State.takeRun (s : State) : State :=
  match s.part.opState with
  | .standby => if s.part.setCheckRun then s.carryOut Part.enterRun else s.result .conflict
  | .run => s.result .refused
  | .stopping => s.result .busy

/-- STANDBY (R159). -/
def State.takeStandby (s : State) : State :=
  match s.part.opState with
  | .run => s.carryOut Part.enterStopping
  | .standby => s.result .ok
  | .stopping => s.result .ok

/-! ## The timer -/

/-- The guard and the prescaler are in range (R112). -/
def timingOk (prescaler : Word) (guardTicks : Byte) : Bool :=
  decide (1 ≤ prescaler.toNat) && decide (prescaler.toNat ≤ 4096) && decide (1 ≤ guardTicks.toNat)

/-- SET_TIMING's effect (R112). -/
def Part.setTiming (p : Part) (source : Source) (prescaler : Word) (guardTicks : Byte) : Part :=
  { p with timer := { p.timer with source := source, prescaler := prescaler.toNat, guardTicks := guardTicks.toNat } }

/-- SET_TIMING: the ranges before the state (R112). -/
def State.takeSetTiming (s : State) (source : Byte) (prescaler : Word) (guardTicks : Byte) : State :=
  match sourceArg source with
  | none => s.result .badArg
  | some src =>
    if !timingOk prescaler guardTicks then s.result .badArg
    else
      match s.part.opState with
      | .standby => s.carryOut (fun p => p.setTiming src prescaler guardTicks)
      | .run => s.result .refused
      | .stopping => s.result .busy

/-- SET_PERIOD's effect: the period at once in STANDBY, else the pending period (R111). -/
def Part.setPeriod (p : Part) (n : Nat) : Part :=
  if p.opState = .standby then { p with timer := { p.timer with period := n } }
  else { p with timer := { p.timer with pending := some n } }

/-- SET_PERIOD (R111). -/
def State.takeSetPeriod (s : State) (period : Word) : State :=
  if period.toNat < 2 then s.result .badArg else s.carryOut (fun p => p.setPeriod period.toNat)

/-- BOUNDARY (R119). -/
def State.takeBoundary (s : State) : State :=
  match s.part.opState with
  | .run => s.carryOut (fun p => p.boundary.settle)
  | .standby => s.result .refused
  | .stopping => s.result .busy

/-- The latch takes the count and the boundary count, unless it is latched (R122). -/
def Timer.latch (t : Timer) : Timer :=
  if t.latched then t else { t with latched := true, latchCount := t.count, latchBoundaries := t.boundaries }

/-- LATCH_TIMER (R122). -/
def State.takeLatchTimer (s : State) : State := s.carryOut (fun p => { p with timer := p.timer.latch })

/-- READ_TIMER: the reply, and the latch becomes unlatched (R122, R171). -/
def State.takeReadTimer (s : State) : State :=
  ({ s with part := { s.part with timer := { s.part.timer with latched := false } } }).withReply
    (replyOf .ok (timerReply s.part.timer))

/-! ## Channels and limits -/

/-- GET_CHANNEL (R97, R171). -/
def State.takeGetChannel (s : State) (channel : Byte) : State :=
  match channelArg channel with
  | none => s.result .badArg
  | some c => s.withReply (replyOf .ok (channelReply (s.part.channel c)))

/-- Every channel's mask in one event (R91, R172). -/
def Part.setMasks (p : Part) (masks : Byte) : Part :=
  { p with copy := { p.copy with
      channels := Vector.ofFn (fun c : Chan => { p.channel c with masked := masks.getLsbD c.val }) } }

/-- SET_CHANNELS (R91, R170). -/
def State.takeSetChannels (s : State) (masks : Byte) : State :=
  if 16 ≤ masks.toNat then s.result .badArg else s.carryOut (fun p => (p.setMasks masks).settle)

/-- The three limits are in range; every byte is a stall limit (R44, R137, R144). -/
def limitsOk (runLimit accessTime : Byte) : Bool :=
  decide (1 ≤ runLimit.toNat) && decide (runLimit.toNat ≤ 15) &&
    decide (2 ≤ accessTime.toNat) && decide (accessTime.toNat ≤ 15)

/-- SET_LIMITS' effect (R137). -/
def Part.setLimits (p : Part) (runLimit stallLimit accessTime : Byte) : Part :=
  { p with
    stallLimit := stallLimit.toNat
    arbiter := { p.arbiter with runLimit := runLimit.toNat, accessTime := accessTime.toNat } }

/-- SET_LIMITS (R137). -/
def State.takeSetLimits (s : State) (runLimit stallLimit accessTime : Byte) : State :=
  if limitsOk runLimit accessTime then s.carryOut (fun p => p.setLimits runLimit stallLimit accessTime)
  else s.result .badArg

/-! ## Notices -/

/-- SET_NOTICE_MASKS' effect on the port (R153, R172). -/
def Part.setNoticeMasks (p : Part) (port : Port) (kinds : Byte) (windows : Word) (routing : Byte) : Part :=
  let n := p.notices.get port
  { p with notices := p.notices.set port { n with kindMask := kinds, windowMask := windows, routing := routing.setWidth 6 } }

/-- SET_NOTICE_MASKS (R153, R170). -/
def State.takeSetNoticeMasks (s : State) (port kinds : Byte) (windows : Word) (routing : Byte) : State :=
  match portArg port with
  | none => s.result .badArg
  | some q =>
    if 64 ≤ routing.toNat then s.result .badArg
    else s.carryOut (fun p => p.setNoticeMasks q kinds windows routing)

/-- The window POLL finds: the first of the poll order that holds the line (R154). -/
def NoticeUnit.polled? (n : NoticeUnit) : Option Win := n.pollOrder.find? (fun w => n.holdsLine w)

/-- The port's notice state after POLL found a window: its notices cleared, the window at the end of the order (R154). -/
def NoticeUnit.afterPoll (n : NoticeUnit) (w : Win) : NoticeUnit :=
  { n with
    window := n.window.set w.val 0#8 w.isLt
    pollOrder := n.pollOrder.filter (fun x => decide (x ≠ w)) ++ [w] }

/-- POLL (R154, R171). -/
def State.takePoll (s : State) (port : Byte) : State :=
  match portArg port with
  | none => s.result .badArg
  | some q =>
    let n := s.part.notices.get q
    match n.polled? with
    | none => s.withReply (replyOf .ok [noneByte, 0x00#8])
    | some w =>
      ({ s with part := { s.part with notices := s.part.notices.set q (n.afterPoll w) } }).withReply
        (replyOf .ok [byteOf w.val, n.window[w]])

/-- READ_GLOBAL (R155, R171). -/
def State.takeReadGlobal (s : State) (port : Byte) : State :=
  match portArg port with
  | none => s.result .badArg
  | some q =>
    let n := s.part.notices.get q
    ({ s with part := { s.part with notices := s.part.notices.set q { n with global := 0#6 } } }).withReply
      (replyOf .ok [n.global.setWidth 8])

/-! ## The frame end -/

/-- The command is taken (R168). NOP leaves the reply buffer as it was (R167). -/
def State.takeCommand (s : State) (c : LinkCommand) : State :=
  match c with
  | .nop => s
  | .getStatus => s.takeGetStatus
  | .setWindow w i => s.takeSetWindow w i
  | .getWindow w sel => s.takeGetWindow w sel
  | .getWindowState w => s.takeGetWindowState w
  | .clearStage => s.takeClearStage
  | .hold => s.takeHold
  | .unhold => s.takeUnhold
  | .run => s.takeRun
  | .standby => s.takeStandby
  | .softReset => s.softResetTaken
  | .setTiming source prescaler guardTicks => s.takeSetTiming source prescaler guardTicks
  | .setPeriod period => s.takeSetPeriod period
  | .boundary => s.takeBoundary
  | .latchTimer => s.takeLatchTimer
  | .readTimer => s.takeReadTimer
  | .getChannel c => s.takeGetChannel c
  | .setChannels m => s.takeSetChannels m
  | .setLimits r st a => s.takeSetLimits r st a
  | .setNoticeMasks port kinds windows routing => s.takeSetNoticeMasks port kinds windows routing
  | .poll port => s.takePoll port
  | .readGlobal port => s.takeReadGlobal port

/-- SS# rises: the frame ends and is judged, and a command that is taken is taken in this event (R166, R168). -/
def State.frameEnd (s : State) (whole : Verdict) : State :=
  match s.verdict whole with
  | .ignored => s.frameEnded
  | .malformed => s.frameEnded.withReply [Result.frameError.byte]
  | .taken c => s.frameEnded.takeCommand c

end Sys2Proof.Machine
end

