-- ==== Sys2Proof/Machine/PortAccess.lean ====
section
/-!
DEFINITION. The arrival of an access at a port interface and the end of a bus cycle, with ACCESS_ARRIVAL,
BUS_CYCLE_END and MEMORY_ACCESS_COMPLETION (02_access_resolution.md, 08_memory_port_and_arbitration.md).
-/

namespace Sys2Proof.Machine

/-- The access a port presents: with both strobes it is a write; only a write holds write data (R26). -/
def arrivingAccess (addr : Addr) (write : Bool) (lanes : Lanes) (data : Word) : Access where
  addr := addr
  write := write
  lanes := lanes
  data := if write then data else 0#16
  phase := .unclassified

/-- The bus cycle of a port begins. -/
def Part.beginCycle (p : Part) (port : Port) : Part :=
  { p with ports := p.ports.set port { p.ports.get port with busCycle := true } }

/-- The interface takes the access; nothing is driven on the data lines yet (R26, R27). -/
def Part.takeAccess (p : Part) (port : Port) (a : Access) : Part :=
  { p with ports := p.ports.set port { access := some a, readData := none, busCycle := true } }

/-- The port can take a new access: none is in progress, and no earlier bus cycle is still running (R26, R161). -/
def PortIf.ready (i : PortIf) : Bool := i.access.isNone && !i.busCycle

/-- An arrival: the access is taken and classified (R26, R28). Before step 2 of a soft reset it is taken and waits for
its classification there (R163). -/
def Part.arrive (p : Part) (port : Port) (a : Access) : Part :=
  if p.softReset = .draining then p.takeAccess port a
  else
    ((p.takeAccess port a).proceed port a ((p.takeAccess port a).classify port a.addr a.write)).settle

/-- A port presents an access. While the part is held in reset the bus cycle runs and no access is taken (R161). A port
that is not ready takes none (R26; log entry 8). -/
def State.present (s : State) (port : Port) (a : Access) : State :=
  if s.held then { s with part := s.part.beginCycle port }
  else if (s.part.ports.get port).ready then { s with part := s.part.arrive port a }
  else s

/-- The bus cycle of a port ends: nothing is driven any more; an access still in progress runs on (R26, R27). -/
def Part.endCycle (p : Part) (port : Port) : Part :=
  { p with ports := p.ports.set port { p.ports.get port with busCycle := false, readData := none } }

/-! ## The commands -/

/-- ACCESS_ARRIVAL (R26): chip select without a strobe is no access. -/
def execAccessArrival (port : Port) (addr : Addr) (readStrobe writeStrobe : Bool) (lanes : Lanes) (data : Word)
    (s : State) : Host.Outcome State Fault Refusal :=
  .next (if readStrobe || writeStrobe then s.present port (arrivingAccess addr writeStrobe lanes data) else s)

/-- BUS_CYCLE_END (R26). -/
def execBusCycleEnd (port : Port) (s : State) : Host.Outcome State Fault Refusal :=
  .next { s with part := s.part.endCycle port }

/-- MEMORY_ACCESS_COMPLETION (R139). -/
def execMemoryAccessCompletion (s : State) : Host.Outcome State Fault Refusal := .next s.memoryCompletion

end Sys2Proof.Machine
end

