-- ==== Sys2Proof/Machine/TagAccess.lean ====
section
/-!
DEFINITION. The commands that are accesses to the tag words of a window: SEQ_READ, STATUS_READ, EXPLICIT_RELEASE,
ABANDON, UNPIN, CONTROL_WRITE_REFUSED, TAG_WRITE (05_tag_block.md). Each is the arrival of that access at its port, so
that it is classified like any other access (R106; log entry 9).
-/

namespace Sys2Proof.Machine

/-- The geometry a port's software uses for a window: the working geometry while it is in service, else the live
descriptor's (log entry 9). -/
def Part.tagGeometry (p : Part) (w : Win) : Geometry :=
  match p.service w with
  | some sv => sv.geometry
  | none => (p.liveOf w).geometry

/-- The address of a tag word: words 0 to 3 of line 0 of the logical range (R5). -/
def Part.tagAddr (p : Part) (w : Win) (word : TagWord) : Addr :=
  (p.tagGeometry w).logicalBase + BitVec.ofNat 20 (tagOffset word)

/-- A port presents a read of a tag word. -/
def State.presentTagRead (s : State) (port : Port) (w : Win) (word : TagWord) (lanes : Lanes) : State :=
  s.present port (arrivingAccess (s.part.tagAddr w word) false lanes 0#16)

/-- A port presents a write to a tag word. -/
def State.presentTagWrite (s : State) (port : Port) (w : Win) (word : TagWord) (lanes : Lanes) (data : Word) : State :=
  s.present port (arrivingAccess (s.part.tagAddr w word) true lanes data)

/-- SEQ_READ (R99). -/
def execSeqRead (port : Port) (w : Win) (lanes : Lanes) (s : State) : Host.Outcome State Fault Refusal :=
  .next (s.presentTagRead port w .seq lanes)

/-- STATUS_READ (R100, R101). -/
def execStatusRead (port : Port) (w : Win) (lanes : Lanes) (s : State) : Host.Outcome State Fault Refusal :=
  .next (s.presentTagRead port w .status lanes)

/-- EXPLICIT_RELEASE: the producer writes 0x0001 to CONTROL with both lanes (R48, R105). -/
def execExplicitRelease (w : Win) (s : State) : Host.Outcome State Fault Refusal :=
  .next (s.presentTagWrite (s.part.tagGeometry w).producer w .control Lanes.both 0x0001#16)

/-- ABANDON: the producer writes 0x0002 to CONTROL with both lanes (R55, R105). -/
def execAbandon (w : Win) (s : State) : Host.Outcome State Fault Refusal :=
  .next (s.presentTagWrite (s.part.tagGeometry w).producer w .control Lanes.both 0x0002#16)

/-- UNPIN: the consumer writes 0x0003 to CONTROL with both lanes (R65, R105). -/
def execUnpin (w : Win) (s : State) : Host.Outcome State Fault Refusal :=
  .next (s.presentTagWrite (s.part.tagGeometry w).producer.other w .control Lanes.both 0x0003#16)

/-- CONTROL_WRITE_REFUSED: a write to CONTROL that R105 refuses. -/
def execControlWriteRefused (port : Port) (w : Win) (lanes : Lanes) (data : Word) (s : State) :
    Host.Outcome State Fault Refusal :=
  .next (s.presentTagWrite port w .control lanes data)

/-- TAG_WRITE: a write to SEQ, STATUS or FILL (R104). -/
def execTagWrite (port : Port) (w : Win) (word : TagWord) (lanes : Lanes) (data : Word) (s : State) :
    Host.Outcome State Fault Refusal :=
  .next (s.presentTagWrite port w word lanes data)

end Sys2Proof.Machine
end

