-- ==== Sys2Proof/Machine/TimeEvents.lean ====
section
/-!
DEFINITION. The commands of time: TICK, STALL_LIMIT_REACHED, PERIOD_BOUNDARY, SYNC_IN_EDGE, SYNC_LOSS,
FLYWHEEL_BOUNDARY (06_cycle_boundaries.md, R44 to R46). A boundary that the count makes, and the end of a stall at its
limit, fall at a tick: their commands are that tick where it brings them, and nothing where it does not (log entry 5).
-/

namespace Sys2Proof.Machine

/-- A tick of the part (R109). -/
def State.tick (s : State) (first : PerPort Bool) : State := { s with part := s.part.tick first }

/-- The boundary that the next tick makes (R114, R115, R116). -/
def Part.nextDue (p : Part) : Due :=
  if p.timer.running then p.timer.due p.timer.nextCount else .nothing

/-- The next tick brings the stall of a port to the limit (R44). -/
def Part.stallNext (p : Part) (port : Port) : Bool := p.timer.running && (p.advanceStalls.stallDue port).isSome

/-- TICK (R109): with the timer stopped no tick falls. Where a stall limit and a boundary are both due at it, two bits of
a free value say, one for each port, which is taken first (R46; log entry 6). -/
def execTick (s : State) : Host.Outcome State Fault Refusal :=
  let free := Config.freeWord s.freeIndex
  .next (if s.part.timer.running then (s.tick ⟨free.getLsbD 0, free.getLsbD 1⟩).useFree else s)

/-- STALL_LIMIT_REACHED (R45): the tick at which the stall of the port reaches the limit, the stalls before any boundary
of that tick (log entries 5 and 6). -/
def execStallLimitReached (port : Port) (s : State) : Host.Outcome State Fault Refusal :=
  .next (if s.part.stallNext port then s.tick ⟨true, true⟩ else s)

/-- PERIOD_BOUNDARY (R114): the tick at which, under INTERNAL, the count reaches the period. -/
def execPeriodBoundary (s : State) : Host.Outcome State Fault Refusal :=
  .next (if s.part.nextDue = .period then s.tick ⟨false, false⟩ else s)

/-- SYNC_IN_EDGE (R115, R116). -/
def execSyncInEdge (s : State) : Host.Outcome State Fault Refusal := .next { s with part := s.part.syncEdge }

/-- SYNC_LOSS (R115): the tick at which, under EXTERNAL and LOCKED, the count reaches the period plus the guard. -/
def execSyncLoss (s : State) : Host.Outcome State Fault Refusal :=
  .next (if s.part.nextDue = .loss then s.tick ⟨false, false⟩ else s)

/-- FLYWHEEL_BOUNDARY (R116): the tick at which, in FLYWHEEL, the count reaches the period. -/
def execFlywheelBoundary (s : State) : Host.Outcome State Fault Refusal :=
  .next (if s.part.nextDue = .flywheel then s.tick ⟨false, false⟩ else s)

end Sys2Proof.Machine
end

