-- ==== Sys2Proof/Machine/LinkCommands.lean ====
section
/-!
DEFINITION. The commands of the management link: SS# falling, the edges of SCK, and the frame ends, one for each
command of the link and two for the frames that are none (11_management_link.md; log entry 10).
-/

namespace Sys2Proof.Machine

/-- FRAME_START: SS# falls. While the part is held in reset the frame is one it will not take; SS# low already is no
falling edge (R161, R166; log entry 12). -/
def execFrameStart (s : State) : Host.Outcome State Fault Refusal :=
  .next
    (match s.link.frame with
      | .idle =>
        { s with link := { s.link with frame := if s.held then .discarded else .shifting (Frame.start s.link.reply) } }
      | _ => s)

/-- What an SCK edge does to the frame (R166). -/
def Frame.edge (f : Frame) : SckEdge → Frame
  | .rising sdi => f.sample sdi
  | .falling => f.advance

/-- SCK_EDGE: within a frame a rising edge samples SDI and a falling edge changes SDO; while the part is held in reset
both are ignored (R161, R166). -/
def execSckEdge (edge : SckEdge) (s : State) : Host.Outcome State Fault Refusal :=
  .next
    (if s.held then s
    else
      match s.link.frame with
      | .shifting f => { s with link := { s.link with frame := .shifting (f.edge edge) } }
      | _ => s)

/-- FRAME_ERROR (R168). -/
def execFrameError (s : State) : Host.Outcome State Fault Refusal := .next (s.frameEnd .malformed)

/-- EMPTY_FRAME (R168). -/
def execEmptyFrame (s : State) : Host.Outcome State Fault Refusal := .next (s.frameEnd .ignored)

/-- NOP (R167). -/
def execNop (s : State) : Host.Outcome State Fault Refusal := .next (s.frameEnd (.taken .nop))

/-- GET_STATUS (R171). -/
def execGetStatus (s : State) : Host.Outcome State Fault Refusal := .next (s.frameEnd (.taken .getStatus))

/-- SET_WINDOW (R124). -/
def execSetWindow (window : Byte) (image : DescriptorImage) (s : State) : Host.Outcome State Fault Refusal :=
  .next (s.frameEnd (.taken (.setWindow window image)))

/-- GET_WINDOW (R170). -/
def execGetWindow (window selection : Byte) (s : State) : Host.Outcome State Fault Refusal :=
  .next (s.frameEnd (.taken (.getWindow window selection)))

/-- GET_WINDOW_STATE (R25). -/
def execGetWindowState (window : Byte) (s : State) : Host.Outcome State Fault Refusal :=
  .next (s.frameEnd (.taken (.getWindowState window)))

/-- CLEAR_STAGE (R126). -/
def execClearStage (s : State) : Host.Outcome State Fault Refusal := .next (s.frameEnd (.taken .clearStage))

/-- HOLD (R127). -/
def execHold (s : State) : Host.Outcome State Fault Refusal := .next (s.frameEnd (.taken .hold))

/-- UNHOLD (R127). -/
def execUnhold (s : State) : Host.Outcome State Fault Refusal := .next (s.frameEnd (.taken .unhold))

/-- RUN (R158). -/
def execRun (s : State) : Host.Outcome State Fault Refusal := .next (s.frameEnd (.taken .run))

/-- STANDBY (R159). -/
def execStandby (s : State) : Host.Outcome State Fault Refusal := .next (s.frameEnd (.taken .standby))

/-- SET_TIMING (R112). -/
def execSetTiming (source : Byte) (prescaler : Word) (guardTicks : Byte) (s : State) :
    Host.Outcome State Fault Refusal :=
  .next (s.frameEnd (.taken (.setTiming source prescaler guardTicks)))

/-- SET_PERIOD (R111). -/
def execSetPeriod (period : Word) (s : State) : Host.Outcome State Fault Refusal :=
  .next (s.frameEnd (.taken (.setPeriod period)))

/-- BOUNDARY (R119). -/
def execBoundary (s : State) : Host.Outcome State Fault Refusal := .next (s.frameEnd (.taken .boundary))

/-- LATCH_TIMER (R122). -/
def execLatchTimer (s : State) : Host.Outcome State Fault Refusal := .next (s.frameEnd (.taken .latchTimer))

/-- READ_TIMER (R122). -/
def execReadTimer (s : State) : Host.Outcome State Fault Refusal := .next (s.frameEnd (.taken .readTimer))

/-- GET_CHANNEL (R97). -/
def execGetChannel (channel : Byte) (s : State) : Host.Outcome State Fault Refusal :=
  .next (s.frameEnd (.taken (.getChannel channel)))

/-- SET_CHANNELS (R91). -/
def execSetChannels (masks : Byte) (s : State) : Host.Outcome State Fault Refusal :=
  .next (s.frameEnd (.taken (.setChannels masks)))

/-- SET_LIMITS (R137). -/
def execSetLimits (runLimit stallLimit accessTime : Byte) (s : State) : Host.Outcome State Fault Refusal :=
  .next (s.frameEnd (.taken (.setLimits runLimit stallLimit accessTime)))

/-- SET_NOTICE_MASKS (R153). -/
def execSetNoticeMasks (port kinds : Byte) (windows : Word) (routing : Byte) (s : State) :
    Host.Outcome State Fault Refusal :=
  .next (s.frameEnd (.taken (.setNoticeMasks port kinds windows routing)))

/-- POLL (R154). -/
def execPoll (port : Byte) (s : State) : Host.Outcome State Fault Refusal :=
  .next (s.frameEnd (.taken (.poll port)))

/-- READ_GLOBAL (R155). -/
def execReadGlobal (port : Byte) (s : State) : Host.Outcome State Fault Refusal :=
  .next (s.frameEnd (.taken (.readGlobal port)))

end Sys2Proof.Machine
end

