-- ==== Sys2Proof/Machine/ResetEvents.lean ====
section
/-!
DEFINITION. The commands of the resets: SOFT_RESET with its two later events, RESET_PIN, RESET_RELEASE, POWER_UP,
POWER_ON_HOLD_END (10_operating_states_and_reset.md).
-/

namespace Sys2Proof.Machine

/-- SOFT_RESET: its frame end (R162). -/
def execSoftReset (s : State) : Host.Outcome State Fault Refusal := .next (s.frameEnd (.taken .softReset))

/-- SOFT_RESET_APPLY: the completion that ends step 1, at which every block takes its reset values; nothing where the
completion at hand is no such one (R162 step 2; log entry 7). -/
def execSoftResetApply (s : State) : Host.Outcome State Fault Refusal :=
  .next (if s.softResetDue then s.memoryCompletion else s)

/-- SOFT_RESET_DONE: the completion of the last pass-through access that step 4 waits for; nothing where the completion
at hand is no such one (R162 step 4; log entry 7). -/
def execSoftResetDone (s : State) : Host.Outcome State Fault Refusal :=
  .next (if s.softResetEnding then s.memoryCompletion else s)

/-- RESET_PIN: RESET# falls (R161). -/
def execResetPin (s : State) : Host.Outcome State Fault Refusal := .next s.resetPin

/-- RESET_RELEASE: RESET# rises; the part works unless the power-on hold still lasts (R161, R164). -/
def execResetRelease (s : State) : Host.Outcome State Fault Refusal := .next { s with resetLow := false }

/-- POWER_UP (R164). -/
def execPowerUp (s : State) : Host.Outcome State Fault Refusal := .next s.powerUp

/-- POWER_ON_HOLD_END: from here the part follows RESET# (R164). -/
def execPowerOnHoldEnd (s : State) : Host.Outcome State Fault Refusal := .next { s with powerHold := false }

end Sys2Proof.Machine
end

