-- ==== Sys2Proof/Machine/Dispatch.lean ====
section
/-!
DEFINITION. `exec`: one arm for each command, each one direct call of its meaning.
-/

namespace Sys2Proof.Machine

def exec (i : Instr) (s : State) : Host.Outcome State Fault Refusal :=
  match i with
  | .accessArrival port addr readStrobe writeStrobe lanes data => Sys2Proof.Machine.execAccessArrival port addr readStrobe writeStrobe lanes data s
  | .busCycleEnd port => Sys2Proof.Machine.execBusCycleEnd port s
  | .seqRead port window lanes => Sys2Proof.Machine.execSeqRead port window lanes s
  | .statusRead port window lanes => Sys2Proof.Machine.execStatusRead port window lanes s
  | .explicitRelease window => Sys2Proof.Machine.execExplicitRelease window s
  | .abandon window => Sys2Proof.Machine.execAbandon window s
  | .unpin window => Sys2Proof.Machine.execUnpin window s
  | .controlWriteRefused port window lanes data => Sys2Proof.Machine.execControlWriteRefused port window lanes data s
  | .tagWrite port window word lanes data => Sys2Proof.Machine.execTagWrite port window word lanes data s
  | .memoryAccessCompletion => Sys2Proof.Machine.execMemoryAccessCompletion s
  | .tick => Sys2Proof.Machine.execTick s
  | .stallLimitReached port => Sys2Proof.Machine.execStallLimitReached port s
  | .periodBoundary => Sys2Proof.Machine.execPeriodBoundary s
  | .syncInEdge => Sys2Proof.Machine.execSyncInEdge s
  | .syncLoss => Sys2Proof.Machine.execSyncLoss s
  | .flywheelBoundary => Sys2Proof.Machine.execFlywheelBoundary s
  | .frameError => Sys2Proof.Machine.execFrameError s
  | .emptyFrame => Sys2Proof.Machine.execEmptyFrame s
  | .nop => Sys2Proof.Machine.execNop s
  | .getStatus => Sys2Proof.Machine.execGetStatus s
  | .setWindow window image => Sys2Proof.Machine.execSetWindow window image s
  | .getWindow window selection => Sys2Proof.Machine.execGetWindow window selection s
  | .getWindowState window => Sys2Proof.Machine.execGetWindowState window s
  | .clearStage => Sys2Proof.Machine.execClearStage s
  | .hold => Sys2Proof.Machine.execHold s
  | .unhold => Sys2Proof.Machine.execUnhold s
  | .run => Sys2Proof.Machine.execRun s
  | .standby => Sys2Proof.Machine.execStandby s
  | .softReset => Sys2Proof.Machine.execSoftReset s
  | .softResetApply => Sys2Proof.Machine.execSoftResetApply s
  | .softResetDone => Sys2Proof.Machine.execSoftResetDone s
  | .setTiming source prescaler guardTicks => Sys2Proof.Machine.execSetTiming source prescaler guardTicks s
  | .setPeriod period => Sys2Proof.Machine.execSetPeriod period s
  | .boundary => Sys2Proof.Machine.execBoundary s
  | .latchTimer => Sys2Proof.Machine.execLatchTimer s
  | .readTimer => Sys2Proof.Machine.execReadTimer s
  | .getChannel channel => Sys2Proof.Machine.execGetChannel channel s
  | .setChannels masks => Sys2Proof.Machine.execSetChannels masks s
  | .setLimits runLimit stallLimit accessTime => Sys2Proof.Machine.execSetLimits runLimit stallLimit accessTime s
  | .setNoticeMasks port kinds windows routing => Sys2Proof.Machine.execSetNoticeMasks port kinds windows routing s
  | .poll port => Sys2Proof.Machine.execPoll port s
  | .readGlobal port => Sys2Proof.Machine.execReadGlobal port s
  | .resetPin => Sys2Proof.Machine.execResetPin s
  | .resetRelease => Sys2Proof.Machine.execResetRelease s
  | .powerUp => Sys2Proof.Machine.execPowerUp s
  | .powerOnHoldEnd => Sys2Proof.Machine.execPowerOnHoldEnd s
  | .frameStart => Sys2Proof.Machine.execFrameStart s
  | .sckEdge edge => Sys2Proof.Machine.execSckEdge edge s

end Sys2Proof.Machine
end

