-- ==== Sys2Proof/Safety.lean ====
section
/-!
DEFINITION. What stays true of the part at every step: the properties of a state that the spec's rules promise, each a
Bool so that it can be evaluated, and a step that keeps one.
-/

namespace Sys2Proof.Machine

/-! ## One window (R12, R13, R15, R17) -/

/-- Each bank has at most one role (R12). -/
def Service.rolesDistinct (sv : Service) : Bool :=
  decide (sv.front ≠ sv.back) &&
    (match sv.ready with
      | some r => decide (r.bank ≠ sv.front) && decide (r.bank ≠ sv.back)
      | none => true)

/-- The latest bank is stale on no line (R39). -/
def Service.latestFresh (sv : Service) : Bool := decide (sv.stale.get sv.latest = noLines)

/-- The images of a record in service: the roles and the latest bank (R12, R39). -/
def Record.imagesOk (r : Record) : Bool :=
  match r.service with
  | some sv => sv.rolesDistinct && sv.latestFresh
  | none => true

/-- The images of every window. -/
def Part.imagesOk (p : Part) : Bool := allWindows.all (fun w => (p.record w).imagesOk)

/-- A RETIRING window holds no ready image, no unreleased writes, no pin and no pending release (R68). -/
def Service.retiringBare (sv : Service) : Bool :=
  !sv.retiring || (sv.ready.isNone && decide (sv.dirty = noLines) && sv.pin.isNone && !sv.releasePending)

/-- DEFERRED stands only over a ready image (R19, R61, R63). -/
def Service.deferredReady (sv : Service) : Bool := !sv.deferred || sv.ready.isSome

/-- A window's record in service. -/
def Service.ok (sv : Service) : Bool :=
  sv.rolesDistinct && sv.latestFresh && sv.retiringBare && sv.deferredReady

/-- A record: the counts that saturate (R17), and its service state. -/
def Record.ok (r : Record) : Bool :=
  decide (r.age ≤ 255) && decide (r.dropped ≤ 255) &&
    (match r.service with | some sv => sv.ok | none => true)

/-- Every window's record. -/
def Part.recordsOk (p : Part) : Bool := allWindows.all (fun w => (p.record w).ok)

/-- In STANDBY every window is OFF; in STOPPING none is LIVE (R32, R113, R157). -/
def Part.windowsMatchState (p : Part) : Bool :=
  match p.opState with
  | .standby => p.allOff
  | .run => true
  | .stopping => allWindows.all (fun w => match p.service w with | some sv => sv.retiring | none => true)

/-! ## Copy Engine (R82, R86) -/

/-- The windows that channels serve. -/
def Part.servedWindows (p : Part) : List Win :=
  allChannels.filterMap fun c =>
    match (p.channel c).work with
    | .serving w _ _ => some w
    | _ => none

/-- No promoted entry stands behind one that is not (R82). -/
def promotedFirst : List WaitEntry → Bool
  | [] => true
  | e :: rest => (e.promoted || rest.all (fun x => !x.promoted)) && promotedFirst rest

/-- A window is at most once on the waiting list, never while a channel serves it, and at most one channel serves it;
every such window is in service (R82). -/
def Part.waitingOk (p : Part) : Bool :=
  decide ((p.copy.waiting.map (fun e => e.window) ++ p.servedWindows).Nodup) && promotedFirst p.copy.waiting &&
    (p.copy.waiting.map (fun e => e.window) ++ p.servedWindows).all (fun w => (p.service w).isSome)

/-- The touch queue holds at most one entry for each port, so at most two; the one entry in service is for the window and
the line that the touch copier copies, and none is in service while it is IDLE or DRAINING (R86, R87, R95). -/
def Part.queueOk (p : Part) : Bool :=
  decide ((p.copy.queue.map (fun e => e.port)).Nodup) &&
    decide ((p.copy.queue.filter (fun e => e.inService)).map (fun e => (e.window, e.line)) =
      match p.copy.touch.work with
      | .copying w cp => [(w, cp.line)]
      | _ => [])

/-- No line of a window is in copy by two copiers (R82). -/
def Part.marksDisjoint (p : Part) : Bool :=
  allWindows.all fun w => decide (p.channelMarks w &&& p.copy.touch.work.mark w = 0#64)

/-! ## Arbiter, timer, notices -/

/-- The arbiter's settings and choice state are in range (R137, R141, R144). -/
def Part.arbiterOk (p : Part) : Bool :=
  decide (p.arbiter.portRun ≤ 15) && decide (1 ≤ p.arbiter.runLimit) && decide (p.arbiter.runLimit ≤ 15) &&
    decide (2 ≤ p.arbiter.accessTime) && decide (p.arbiter.accessTime ≤ 15) && decide (p.stallLimit ≤ 255)

/-- The timer's items are in range (R108). -/
def Timer.ok (t : Timer) : Bool :=
  decide (1 ≤ t.prescaler) && decide (t.prescaler ≤ 4096) && decide (2 ≤ t.period) && decide (t.period ≤ 65535) &&
    (match t.pending with | some n => decide (2 ≤ n) && decide (n ≤ 65535) | none => true) &&
    decide (1 ≤ t.guardTicks) && decide (t.guardTicks ≤ 255) && decide (t.count ≤ 65790) &&
    (t.running || !t.syncOut)

/-- The timer is stopped exactly in STANDBY (R110, R157). -/
def Part.timerMatchesState (p : Part) : Bool := p.timer.running == decide (p.opState ≠ .standby)

/-- The poll order holds the 16 window numbers, each once (R148). -/
def NoticeUnit.orderOk (n : NoticeUnit) : Bool :=
  decide n.pollOrder.Nodup && decide (n.pollOrder.length = 16)

/-- Both ports' poll orders. -/
def Part.ordersOk (p : Part) : Bool := p.notices.a.orderOk && p.notices.b.orderOk

/-! ## The memory port (R29, R136, R139) -/

/-- The access of a port is granted exactly while the memory port is busy with it. -/
def Part.grantMatches (p : Part) (q : Port) : Bool :=
  (match p.accessOf q with
    | some a => (match a.phase with | .granted _ => true | _ => false)
    | none => false) ==
  (match p.arbiter.access with
    | some m => decide (m.requestor = .port q)
    | none => false)

/-- Both ports' grants. -/
def Part.grantsOk (p : Part) : Bool := p.grantMatches .a && p.grantMatches .b

/-- A free memory port leaves no request waiting (R139). -/
def Part.noIdleRequest (p : Part) : Bool := p.arbiter.access.isSome || !p.portContended

/-! ## Nothing moves by itself (the conditions of R78, R79, R87, R89 and R29 for work to begin) -/

/-- The channel has no step to take: if it serves with no line in copy, it is not masked and finds no line, every stale
line of its target being in copy by the touch copier (R79, R91). -/
def Part.channelHolds (p : Part) (c : Chan) : Bool :=
  match (p.channel c).work with
  | .serving w job none =>
    !(p.channel c).masked &&
      (match p.service w with
        | some sv => decide (sv.stale.get (sv.jobTarget job) &&& ~~~ p.inCopyLines w = 0#64)
        | none => true)
  | _ => true

/-- The port has no deferred touch request, or one whose earlier entry's copy still runs (R86, R89). -/
def Part.deferredHolds (p : Part) (q : Port) : Bool :=
  (p.copy.deferred.get q).isNone || p.touchDraining || p.copy.queue.any (fun e => decide (e.port = q))

/-- No channel has a step to take, and no IDLE unmasked channel finds an entry to take; the touch copier is busy, or every
queued entry waits on a channel's line; every deferred touch request waits for the copy of its port's earlier entry. -/
def Part.copyAtRest (p : Part) : Bool :=
  allChannels.all p.channelHolds && (p.freeChannel?.isNone || p.copy.waiting.isEmpty) &&
    (decide (p.copy.touch.work ≠ .idle) ||
      p.copy.queue.all (fun e => e.inService || lineIn (p.inCopyLines e.window) e.line)) &&
    p.deferredHolds .a && p.deferredHolds .b

/-- The access of the port, if it is in a window stall, is in one whose condition still holds. -/
def Part.stallHolds (p : Part) (q : Port) : Bool :=
  match p.accessOf q with
  | some a => (match a.phase with | .stalled st _ => !p.stallEnded q st | _ => true)
  | none => true

/-- No work can begin in the part but by an event from outside or by the completion of the memory access under way. -/
def Part.atRest (p : Part) : Bool := p.copyAtRest && p.stallHolds .a && p.stallHolds .b

/-- The memory port is free and nothing requests it (R139). -/
def Part.memoryFree (p : Part) : Bool := p.arbiter.access.isNone && !p.portContended

/-! ## What an event needs -/

/-- A port can present an access that is taken and classified: the part is not held in reset, no soft reset stands
before its step 2, and the interface is empty with no bus cycle running (R26, R161, R163). -/
def State.canPresent (s : State) (q : Port) : Bool :=
  !s.held && decide (s.part.softReset ≠ .draining) && (s.part.ports.get q).ready

/-- A frame that gives the command `c` ends now: the part takes frames, and the frame is given whole, or is the one being
shifted and holds exactly the bytes of `c` (R166, R168; log entry 10). -/
def State.frameGives (s : State) (c : LinkCommand) : Bool :=
  s.takesFrames &&
    (match s.link.frame with
      | .idle => true
      | .shifting f => decide (f.bytes = frameBytes c) && f.bits.isEmpty
      | .discarded => false)

/-- The interface with an access in progress, its bus cycle running and nothing driven (R26, R27). -/
def PortIf.holding (a : Access) : PortIf := { access := some a, readData := none, busCycle := true }

/-- The interface with no access, its bus cycle running, driving `d` (R27). -/
def PortIf.answered (d : Option Word) : PortIf := { access := none, readData := d, busCycle := true }

/-- The state with another part; memory, link, pins, the model's own fields and the queue as they were. -/
def State.onPart (s : State) (p : Part) : State := { s with part := p }

/-- The part with another interface at the port. -/
def Part.withPort (p : Part) (q : Port) (i : PortIf) : Part := { p with ports := p.ports.set q i }

/-- The arbiter after a grant of the access `m` to a port (R141). -/
def Arbiter.grantedTo (ar : Arbiter) (q : Port) (m : MemAccess) : Arbiter :=
  { ar with access := some m, lastPort := q, portRun := min (ar.portRun + 1) 15 }

/-- The memory access of a port's own request (R30, R31). -/
def MemAccess.ofPort (q : Port) (write : Bool) (addr : Addr) (lanes : Lanes) (data : Word) (time : Nat) : MemAccess :=
  { requestor := .port q, write := write, addr := addr, lanes := lanes, data := data, kind := .single, time := time }

/-- The address is one of the words of the area (R3). -/
def Geometry.holds (g : Geometry) (k : Area) (a : Addr) : Prop :=
  match k with
  | .logical => g.logicalBase.toNat ≤ a.toNat ∧ a.toNat < g.logicalBase.toNat + 16 * g.length
  | .bank1 => g.bank1Base.toNat ≤ a.toNat ∧ a.toNat < g.bank1Base.toNat + 16 * g.length
  | .bank2 => g.bank2Base.toNat ≤ a.toNat ∧ a.toNat < g.bank2Base.toNat + 16 * g.length

/-- The address lies in no area of a window in service other than `w` (R28: the areas are pairwise disjoint). -/
def Part.noOtherHolds (p : Part) (w : Win) (a : Addr) : Prop :=
  ∀ v sv, v ≠ w → p.service v = some sv → ∀ k, ¬ sv.geometry.holds k a

/-- The address lies in no area of any window in service (R28 step 1, R32). -/
def Part.noneHolds (p : Part) (a : Addr) : Prop := ∀ w sv, p.service w = some sv → ∀ k, ¬ sv.geometry.holds k a

/-- The window is in service with the record `sv`, and the address lies in its logical range and in no other window. -/
def Part.logicalOf (p : Part) (w : Win) (sv : Service) (a : Addr) : Prop :=
  p.opState ≠ .standby ∧ p.service w = some sv ∧ sv.geometry.holds .logical a ∧ p.noOtherHolds w a

/-- The address is none of the window's tag words (R5). -/
def Part.noTagWord (p : Part) (w : Win) (sv : Service) (a : Addr) : Prop :=
  (p.liveOf w).tags = false ∨ 4 ≤ sv.geometry.offset a

/-- The part can take the port's access and has no other work to begin, and the memory port, if it is free, has nothing
requesting it. -/
def State.quietFor (s : State) (q : Port) : Prop :=
  s.canPresent q = true ∧ s.part.atRest = true ∧ s.part.noIdleRequest = true

/-- The tag words of the window answer the port: LIVE with tags on, at an aligned base, the address in no other window,
and for the producer no release pending (R34, R98). -/
def Part.tagOpen (p : Part) (q : Port) (w : Win) (sv : Service) (word : TagWord) : Prop :=
  p.opState ≠ .standby ∧ p.service w = some sv ∧ sv.retiring = false ∧ (p.liveOf w).tags = true ∧
    sv.geometry.logicalBase.toNat % 16 = 0 ∧ 1 ≤ sv.geometry.length ∧
    (sv.geometry.producer = q → sv.releasePending = false) ∧ p.noOtherHolds w (p.tagAddr w word)

/-- The memory port is busy with the port's own access, and nothing else requests it. -/
def Part.onlyPortActive (p : Part) (q : Port) : Prop :=
  p.touchRequests = false ∧ (∀ c, p.channelRequests c = false) ∧ p.portRequests q.other = false

/-- The memory port is busy with the channel's own word, and nothing else requests it. -/
def Part.onlyChannelActive (p : Part) (c : Chan) : Prop :=
  p.touchRequests = false ∧ (∀ d, d ≠ c → p.channelRequests d = false) ∧ ∀ q, p.portRequests q = false

/-- The memory port is busy with the touch copier's own word, and nothing else requests it. -/
def Part.onlyTouchActive (p : Part) : Prop := (∀ c, p.channelRequests c = false) ∧ ∀ q, p.portRequests q = false

/-- No channel serves the window without a line in copy. -/
def Part.noChannelWaitsIn (p : Part) (w : Win) : Prop := ∀ c job, (p.channel c).work ≠ .serving w job none

/-- The memory after an access that may write its enabled lanes: written, or, where the memory is slower than the access
time, written or not (R31, R137). -/
def Memory.afterWrite (m m' : Memory) (a : MemAccess) (slow : Bool) : Prop :=
  (∀ k, m'.readByte k =
    if a.lanes.lower = true ∧ k = 2 * a.addr.toNat then a.data.extractLsb' 0 8
    else if a.lanes.upper = true ∧ k = 2 * a.addr.toNat + 1 then a.data.extractLsb' 8 8
    else m.readByte k) ∨
  (slow = true ∧ m' = m)

/-- The access of a channel's next half word (R76). -/
def MemAccess.ofChannel (c : Chan) (write : Bool) (addr : Addr) (data : Word) (time : Nat) : MemAccess :=
  { requestor := .channel c, write := write, addr := addr, lanes := ⟨true, true⟩, data := data, kind := .single
    time := time }

/-- The arbiter after a grant of the access `m` to a channel (R141). -/
def Arbiter.grantedToChannel (ar : Arbiter) (c : Chan) (m : MemAccess) : Arbiter :=
  { ar with access := some m, portRun := 0, nextChannel := c + 1 }

/-- The channel serves the window with the job and begins the line, into the back from the latest bank for CATCH_UP, into
bank 0 from the front for RETIRE; a free memory port is granted to its first read (R75, R78, R79, R139, R141). -/
def Part.jobTaken (p : Part) (c : Chan) (w : Win) (job : Job) (sv : Service) (line : Nat) : Part :=
  let cp : LineCopy :=
    match job with
    | .catchUp => ⟨line, sv.geometry.base sv.latest, sv.geometry.base sv.back, 0, .read⟩
    | .retire => ⟨line, sv.geometry.base sv.front, sv.geometry.logicalBase, 0, .read⟩
  let serving := p.setChannelWork c (.serving w job (some cp))
  if p.arbiter.access.isSome then serving
  else
    let m : MemAccess := .ofChannel c false (cp.source + BitVec.ofNat 20 (16 * line)) 0#16 p.arbiter.accessTime
    { serving with arbiter := p.arbiter.grantedToChannel c m }

/-- The record that an enable sets up from a descriptor (R23). -/
def Record.setUp (d : Descriptor) : Record :=
  { service := some
      { retiring := false, geometry := ⟨d.producer, d.logicalBase, d.length, d.bank1Base, d.bank2Base⟩
        front := .b0, back := .b1, ready := none
        stale := ⟨0#64, firstLines d.length, firstLines d.length⟩, dirty := 0#64, pin := none
        initial := true, late := false, deferred := false, releasePending := false, carried := false }
    frontNumber := 0#16, next := 1#16, frontFill := 0, age := 0, dropped := 0 }

/-- The window notices of a port that an enable leaves: a producer keeps none of IMAGE_READY, DROPPED and PIN_EXPIRED, a
consumer none of BACK_READY and OVERRUN (R150). -/
def roleKeeps (producer : Bool) (n : NoticeSet) : NoticeSet := n &&& (if producer then 0xF8#8 else 0xE7#8)

/-- No boundary falls at the next tick (R114, R115, R116, R118). -/
def Timer.noBoundaryNext (t : Timer) : Prop :=
  t.source = .command ∨ (t.source = .internal ∧ t.count + 1 < t.period) ∨
    (t.source = .external ∧ t.sync = .locked ∧ t.count + 1 < t.period + t.guardTicks) ∨
    (t.source = .external ∧ t.sync = .flywheel ∧ t.count + 1 < t.period)

/-- The timer after a tick that makes no boundary: the count rises by 1, in COMMAND not beyond 65535, and SYNC_OUT is low
(R109, R118, R120). -/
def Timer.counted (t : Timer) : Timer :=
  { t with count := if t.source = .command ∧ 65535 ≤ t.count then t.count else t.count + 1, syncOut := false }

/-- The timer after a boundary: the count restarts, a pending period becomes the period, the boundary count rises by 1
modulo 2 to the 32 (R111, R113, R121). -/
def Timer.atBoundary (t : Timer) (syncOut : Bool) : Timer :=
  { t with count := 0, period := t.pending.getD t.period, pending := none, boundaries := t.boundaries + 1#32
           syncOut := syncOut }

/-- No stall that stands is at its limit when one more tick has begun, on the port (R44). -/
def Part.noTimeoutNext (p : Part) (q : Port) : Prop :=
  ∀ a st n, p.accessOf q = some a → a.phase = .stalled st n →
    p.softReset = .draining ∨ p.stallLimit = 0 ∨ n + 1 < p.stallLimit

/-- A global notice is pending on every port that had it routed (R151). -/
def Part.globalPending (p t : Part) (k : GlobalNotice) : Prop :=
  ∀ q, (p.notices.get q).routing.getLsbD k.bit = true → (t.notices.get q).global.getLsbD k.bit = true

/-- The boundary's effects before the event settles: the timer, BOUNDARY noted, and the boundary delivered to the Staging
Table and to every window (R113). -/
def Part.boundaryAt (p : Part) (timer : Timer) : Part := (({ p with timer := timer }).noteGlobal .boundary).deliverBoundary

/-- Every entry of the waiting list has work: a stale line in the target of its job (R78). -/
def Part.waitingHasWork (p : Part) : Prop :=
  ∀ e ∈ p.copy.waiting, ∀ sv, p.service e.window = some sv → sv.stale.get (sv.jobTarget e.job) ≠ 0#64

/-- No access of a port waits: each is granted, or there is none. -/
def Part.nothingWaits (p : Part) : Prop := ∀ q a, p.accessOf q = some a → ∃ m, a.phase = .granted m

/-- The part at `t` has come from `p` in RUN through a boundary that leaves the timer as `timer`: BOUNDARY is noted, the
descriptors and the stage are as the boundary left them (with nothing to apply, as they were, and no window is enabled),
and where no access waits every record is as the boundary left it (R113, R129). -/
def Part.boundaryMade (p t : Part) (timer : Timer) : Prop :=
  t.timer = timer ∧ t.opState = .run ∧ Part.globalPending p t .boundary ∧
    t.live = (p.boundaryAt timer).live ∧ t.staging = (p.boundaryAt timer).staging ∧
    (p.staging.hold = true ∨ p.staging.rejected = true ∨ p.staging.changed = 0#16 →
      t.live = p.live ∧ t.staging = p.staging ∧ ∀ w, p.service w = none → t.service w = none) ∧
    (p.atRest = true ∧ p.noIdleRequest = true ∧ p.waitingOk = true ∧ p.waitingHasWork ∧ p.nothingWaits →
      ∀ w, t.record w = (p.boundaryAt timer).record w)

/-! ## Regions of the set check, written out from the records and the descriptors (R128) -/

/-- The three areas of a window as first word and number of words (R3). -/
def areaSpans (logical bank1 bank2 : Addr) (length : Nat) : List (Nat × Nat) :=
  [(logical.toNat, 16 * length), (bank1.toNat, 16 * length), (bank2.toNat, 16 * length)]

/-- The target words of the lines being drained (R95). -/
def Part.drainSpans (p : Part) : List (Nat × Nat) :=
  let span (cp : LineCopy) : Nat × Nat := ((cp.target + BitVec.ofNat 20 (16 * cp.line)).toNat, 16)
  (([0, 1, 2, 3] : List Chan).filterMap fun c =>
    match (p.channel c).work with | .draining _ cp => some (span cp) | _ => none) ++
  (match p.copy.touch.work with | .draining _ cp => [span cp] | _ => [])

/-- The list of a set check at a boundary: a window in service with its working geometry; a window that is OFF, marked
and staged enabled with its staged areas; the drained lines. -/
def Part.spansAtBoundary (p : Part) : List (Nat × Nat) :=
  (([0, 1, 2, 3, 4, 5, 6, 7, 8, 9, 10, 11, 12, 13, 14, 15] : List Win).flatMap fun w =>
    let d := p.staging.staged[w]
    match p.service w with
    | some sv => areaSpans sv.geometry.logicalBase sv.geometry.bank1Base sv.geometry.bank2Base sv.geometry.length
    | none =>
      if p.staging.changed.getLsbD w.val = true ∧ d.enable = true then
        areaSpans d.logicalBase d.bank1Base d.bank2Base d.length
      else []) ++
  p.drainSpans

/-- The list of a set check at RUN: every window staged enabled, and the drained lines. -/
def Part.spansAtRun (p : Part) : List (Nat × Nat) :=
  (([0, 1, 2, 3, 4, 5, 6, 7, 8, 9, 10, 11, 12, 13, 14, 15] : List Win).flatMap fun w =>
    let d := p.staging.staged[w]
    if d.enable = true then areaSpans d.logicalBase d.bank1Base d.bank2Base d.length else []) ++
  p.drainSpans

/-- Every two regions are disjoint. -/
abbrev spansDisjoint (l : List (Nat × Nat)) : Prop := l.Pairwise (fun r t => r.1 + r.2 ≤ t.1 ∨ t.1 + t.2 ≤ r.1)

/-! ## What the touch copier and a soft reset leave -/

/-- The memory access of the touch copier's next half word (R76). -/
def MemAccess.ofTouch (write : Bool) (addr : Addr) (data : Word) (time : Nat) : MemAccess :=
  { requestor := .touch, write := write, addr := addr, lanes := ⟨true, true⟩, data := data, kind := .single, time := time }

/-- The part with another state of the touch copier. -/
def Part.withTouch (p : Part) (t : TouchCopier) : Part := { p with copy := { p.copy with touch := t } }

/-- Steps 2 to 4 of a soft reset: every block at its reset values; an access in progress is a pass-through, granted under
the arbiter's reset state, Port B's first where both ports have one; OK is placed where there is none (R162). -/
def Part.softResetTo (p : Part) : Part × Bool :=
  let kept (q : Port) (phase : Phase) : PortIf :=
    ⟨(p.accessOf q).map (fun a => { a with phase := phase }), (p.ports.get q).readData, (p.ports.get q).busCycle⟩
  let granted (q : Port) (a : Access) : Arbiter :=
    Arbiter.reset.grantedTo q (.ofPort q a.write a.addr a.lanes a.data 4)
  let ports (x y : Phase) : PerPort PortIf := ⟨kept .a x, kept .b y⟩
  let grant : Phase := .granted .passThrough
  match p.accessOf .a, p.accessOf .b with
  | none, none => ({ Part.reset with ports := ports grant grant }, true)
  | some a, none =>
    ({ Part.reset with ports := ports grant grant, arbiter := granted .a a, softReset := .finishing ⟨true, false⟩ }, false)
  | none, some b =>
    ({ Part.reset with ports := ports grant grant, arbiter := granted .b b, softReset := .finishing ⟨false, true⟩ }, false)
  | some _, some b =>
    ({ Part.reset with
        ports := ports (.requesting .passThrough) grant, arbiter := granted .b b
        softReset := .finishing ⟨true, true⟩ }, false)

/-- The state after those steps; the reply buffer takes OK where no access is left, and else stays. -/
def State.softResetDoneAt (s : State) (p : Part) : State :=
  { s with
    part := p.softResetTo.1
    link := { s.link with reply := if p.softResetTo.2 then [0x01#8] else s.link.reply } }

/-- The frame ended and the reply buffer replaced. -/
def State.replied (s : State) (part : Part) (reply : List Byte) : State :=
  { s with part := part, link := { frame := .idle, reply := reply } }

/-- The checks of R8's table on the fields of a descriptor image. -/
def FieldChecks (i : DescriptorImage) : Prop :=
  i.logicalBase.toNat % 16 = 0 ∧ i.bank1Base.toNat % 16 = 0 ∧ i.bank2Base.toNat % 16 = 0 ∧
    i.logicalBase.toNat + 16 * i.length.toNat ≤ 1048576 ∧ i.bank1Base.toNat + 16 * i.length.toNat ≤ 1048576 ∧
    i.bank2Base.toNat + 16 * i.length.toNat ≤ 1048576 ∧
    1 ≤ i.length.toNat ∧ i.length.toNat ≤ 64 ∧ i.pinLimit.toNat ≤ 15 ∧
    (i.flags.getLsbD 2 = true → i.flags.getLsbD 4 = true) ∧
    (0 < i.pinLimit.toNat → i.flags.getLsbD 4 = true) ∧
    (i.flags.getLsbD 3 = true → i.flags.getLsbD 2 = false) ∧
    i.flags.getLsbD 5 = false ∧ i.flags.getLsbD 6 = false ∧ i.flags.getLsbD 7 = false

/-! ## The whole state -/

/-- While the part is held in reset, no access is in progress and the part stands in STANDBY (R161, R164). -/
def State.heldOk (s : State) : Bool :=
  !s.held || (decide (s.part.opState = .standby) && (s.part.accessOf .a).isNone && (s.part.accessOf .b).isNone)

/-- Everything above. -/
def State.sound (s : State) : Bool :=
  s.mem.wf && s.part.recordsOk && s.part.windowsMatchState && s.part.waitingOk && s.part.queueOk &&
    s.part.marksDisjoint && s.part.arbiterOk && s.part.timer.ok && s.part.timerMatchesState && s.part.ordersOk &&
    s.part.grantsOk && s.part.noIdleRequest && s.heldOk

/-- Every step that answers a next state keeps the property `P`. -/
def KeptByStep (P : State → Prop) : Prop := ∀ s t : State, P s → step s = .next t → P t

end Sys2Proof.Machine
end

