-- ==== Sys2Proof/Certificates/Slice0/Obligations.lean ====
section
/-!
DEFINITION. The statements about the model, for the provers. A statement that rests on a choice of the model's own names
its log entry.
-/

section

open Sys2Proof Sys2Proof.Machine

/-! ## The machine -/

/-- A step is the command at the front of the queue, run on the queue's rest; with no command waiting the part idles
(log entry 19: the model's choice). -/
def Obligations.StepRunsTheFrontCommand : Prop :=
  (∀ (c : Instr) (rest : List Instr) (s : State),
    step { s with pending := c :: rest } = exec c { s with pending := rest }) ∧
  (∀ s : State, s.pending = [] → step s = .next s)

/-- What reset leaves. The memory's bytes, the pins and the model's own fields are the model's choices (log entries 2,
3, 4 and 23); everything else is as the spec's reset values say. -/
def Obligations.ResetHoldsTheResetValues : Prop :=
  let s := State.reset
  let off : Descriptor := ⟨false, .a, 0#20, 1, 0#20, 0#20, .boundary, false, false, 0, 0xFFFF#16⟩
  (∀ w : Win, s.part.live[w] = off ∧ s.part.staging.staged[w] = off ∧
    s.part.records[w] = ⟨none, 0#16, 0#16, 0, 0, 0⟩ ∧
    s.part.notices.a.window[w] = 0#8 ∧ s.part.notices.b.window[w] = 0#8) ∧
  s.part.staging.changed = 0#16 ∧ s.part.staging.hold = false ∧ s.part.staging.rejected = false ∧
  (∀ q, s.part.accessOf q = none ∧ (s.part.ports.get q).readData = none ∧ s.part.wait q = false ∧
    s.part.interrupt q = false ∧ (s.part.notices.get q).global = 0#6 ∧ (s.part.notices.get q).kindMask = 0#8 ∧
    (s.part.notices.get q).windowMask = 0#16 ∧ (s.part.notices.get q).routing = 0x3F#6 ∧
    (s.part.notices.get q).pollOrder = [0, 1, 2, 3, 4, 5, 6, 7, 8, 9, 10, 11, 12, 13, 14, 15]) ∧
  s.part.stallLimit = 0 ∧
  (∀ c, s.part.channel c = ⟨.idle, false, 0#16⟩) ∧ s.part.copy.touch = ⟨.idle, 0#16⟩ ∧ s.part.copy.waiting = [] ∧
  s.part.copy.queue = [] ∧ s.part.copy.deferred = ⟨none, none⟩ ∧
  s.part.arbiter = ⟨none, .a, 0, 0, 4, 4⟩ ∧
  s.part.timer = ⟨false, .internal, 1000, 250, none, 8, 0, .locked, false, 0, 0#32, 0#32, false⟩ ∧
  s.part.opState = .standby ∧ s.part.softReset = .none ∧ s.link.reply = [] ∧ s.pending = [] ∧
  s.held = false ∧ s.link.frame = .idle ∧ (∀ k, s.mem.readByte k = 0#8)

/-! ## Accesses that arrive (02_access_resolution.md) -/

/-- Bus cycles and what arrives without being classified: chip select without a strobe is no access; held in reset, the
bus cycle alone begins; a port that is not ready takes nothing (log entry 8: the model's choice); before step 2 of a soft
reset the access is taken and waits for its classification. At the end of its bus cycle a port's read word is no longer
driven, and an access still in progress goes on. -/
def Obligations.BusCycles : Prop :=
  ∀ (q : Port) (addr : Addr) (rd wr : Bool) (lanes : Lanes) (data : Word) (s : State),
    (rd = false ∧ wr = false → exec (.accessArrival q addr rd wr lanes data) s = .next s) ∧
    ((rd || wr) = true ∧ s.held = true →
      exec (.accessArrival q addr rd wr lanes data) s =
        .next (s.onPart (s.part.withPort q { s.part.ports.get q with busCycle := true }))) ∧
    ((rd || wr) = true ∧ s.held = false ∧ (s.part.ports.get q).ready = false →
      exec (.accessArrival q addr rd wr lanes data) s = .next s) ∧
    ((rd || wr) = true ∧ s.held = false ∧ (s.part.ports.get q).ready = true ∧ s.part.softReset = .draining →
      exec (.accessArrival q addr rd wr lanes data) s =
        .next (s.onPart
          (s.part.withPort q (.holding ⟨addr, wr, lanes, if wr then data else 0#16, .unclassified⟩)))) ∧
    exec (.busCycleEnd q) s =
      .next (s.onPart (s.part.withPort q { access := s.part.accessOf q, readData := none, busCycle := false }))

/-- A pass-through access is granted the free memory port at its own address, with its own data and lanes; chip select
with both strobes is a write. -/
def Obligations.PassThroughGranted : Prop :=
  ∀ (q : Port) (addr : Addr) (rd wr : Bool) (lanes : Lanes) (data : Word) (s : State),
    (rd || wr) = true → s.quietFor q → s.part.memoryFree = true →
    s.part.opState = .standby ∨ s.part.noneHolds addr →
    let d : Word := if wr then data else 0#16
    exec (.accessArrival q addr rd wr lanes data) s =
      .next (s.onPart
        ({ s.part.withPort q (.holding ⟨addr, wr, lanes, d, .granted .passThrough⟩) with
          arbiter := s.part.arbiter.grantedTo q (.ofPort q wr addr lanes d s.part.arbiter.accessTime) }))

/-- A read of a word that is no tag word goes to the same word of one bank: the consumer's to the front; the producer's
to the back where the line is up to date there, and to the latest bank where it is not. -/
def Obligations.WindowReadsGranted : Prop :=
  ∀ (q : Port) (addr : Addr) (lanes : Lanes) (data : Word) (s : State) (w : Win) (sv : Service),
    s.quietFor q → s.part.memoryFree = true → s.part.logicalOf w sv addr → s.part.noTagWord w sv addr →
    sv.retiring = false →
    let word (k : Bank) : Addr := sv.geometry.base k + BitVec.ofNat 20 (sv.geometry.offset addr)
    let granted (m : MemClass) (k : Bank) : Part :=
      { s.part.withPort q (.holding ⟨addr, false, lanes, 0#16, .granted m⟩) with
        arbiter := s.part.arbiter.grantedTo q (.ofPort q false (word k) lanes 0#16 s.part.arbiter.accessTime) }
    (sv.geometry.producer ≠ q →
      exec (.accessArrival q addr true false lanes data) s = .next (s.onPart (granted (.consumerRead w) sv.front))) ∧
    (sv.geometry.producer = q ∧ sv.releasePending = false →
      let bank := if lineIn sv.backStale (sv.geometry.offset addr / 16) then sv.latest else sv.back
      exec (.accessArrival q addr true false lanes data) s = .next (s.onPart (granted (.producerRead w) bank)))

/-- A producer write to a line that is up to date in the back goes to the same word of the back, and its line joins the
dirty set at the grant: plain under write mask 0xFFFF, else as the read half of a pair with both lanes. -/
def Obligations.ProducerWriteToBack : Prop :=
  ∀ (q : Port) (addr : Addr) (rd : Bool) (lanes : Lanes) (data : Word) (s : State) (w : Win) (sv : Service),
    s.quietFor q → s.part.memoryFree = true → s.part.logicalOf w sv addr → s.part.noTagWord w sv addr →
    sv.retiring = false → sv.geometry.producer = q → sv.releasePending = false →
    lineIn sv.backStale (sv.geometry.offset addr / 16) = false →
    let mask := (s.part.liveOf w).writeMask
    let word := sv.geometry.base sv.back + BitVec.ofNat 20 (sv.geometry.offset addr)
    let time := s.part.arbiter.accessTime
    let m : MemAccess :=
      if mask = 0xFFFF#16 then .ofPort q true word lanes data time
      else { requestor := .port q, write := false, addr := word, lanes := ⟨true, true⟩, data := data,
             kind := .pairRead mask, time := time }
    exec (.accessArrival q addr rd true lanes data) s =
      .next (s.onPart
        ({ (s.part.setService w { sv with dirty := addLine sv.dirty (sv.geometry.offset addr / 16) }).withPort q
            (.holding ⟨addr, true, lanes, data, .granted (.producerWrite w (decide (mask ≠ 0xFFFF#16)))⟩) with
          arbiter := s.part.arbiter.grantedTo q m }))

/-- A read of a bank 1 or bank 2 area of a window in service reaches memory at its own address, whatever the window's
state and the port's role, and notes VIOLATION to the port at its grant. -/
def Obligations.IntrusionReadGranted : Prop :=
  ∀ (q : Port) (addr : Addr) (lanes : Lanes) (data : Word) (s : State) (w : Win) (sv : Service),
    s.quietFor q → s.part.memoryFree = true → s.part.opState ≠ .standby → s.part.service w = some sv →
    sv.geometry.holds .bank1 addr ∨ sv.geometry.holds .bank2 addr → ¬ sv.geometry.holds .logical addr →
    s.part.noOtherHolds w addr →
    exec (.accessArrival q addr true false lanes data) s =
      .next (s.onPart
        ({ (s.part.note q w .violation).withPort q
            (.holding ⟨addr, false, lanes, 0#16, .granted (.intrusionRead w)⟩) with
          arbiter := s.part.arbiter.grantedTo q (.ofPort q false addr lanes 0#16 s.part.arbiter.accessTime) }))

/-- A consumer write to a word that is no tag word, and a write to a bank 1 or bank 2 area of a window in service, are
discarded: the access completes at once, VIOLATION is noted to the port, and nothing else changes. -/
def Obligations.DiscardedWrites : Prop :=
  ∀ (q : Port) (addr : Addr) (rd : Bool) (lanes : Lanes) (data : Word) (s : State) (w : Win) (sv : Service),
    s.quietFor q →
    (s.part.logicalOf w sv addr ∧ s.part.noTagWord w sv addr ∧ sv.retiring = false ∧ sv.geometry.producer ≠ q) ∨
      (s.part.opState ≠ .standby ∧ s.part.service w = some sv ∧
        (sv.geometry.holds .bank1 addr ∨ sv.geometry.holds .bank2 addr) ∧ ¬ sv.geometry.holds .logical addr ∧
        s.part.noOtherHolds w addr) →
    exec (.accessArrival q addr rd true lanes data) s =
      .next (s.onPart ((s.part.withPort q (.answered none)).note q w .violation))

/-- An access that is held. One to the logical range of a RETIRING window, tag words included, and the producer's to one
with RELEASE_PENDING set, stands in its stall from a fresh start time; one whose class needs memory requests a busy memory
port and waits. Nothing else changes. -/
def Obligations.HeldByTheWindowOrTheBusyPort : Prop :=
  ∀ (q : Port) (addr : Addr) (rd wr : Bool) (lanes : Lanes) (data : Word) (s : State),
    (rd || wr) = true → s.quietFor q →
    let held (phase : Phase) : State :=
      s.onPart (s.part.withPort q (.holding ⟨addr, wr, lanes, if wr then data else 0#16, phase⟩))
    (∀ (w : Win) (sv : Service), s.part.logicalOf w sv addr →
      (sv.retiring = true →
        exec (.accessArrival q addr rd wr lanes data) s = .next (held (.stalled (.retiring w) 0))) ∧
      (sv.retiring = false ∧ sv.geometry.producer = q ∧ sv.releasePending = true →
        exec (.accessArrival q addr rd wr lanes data) s = .next (held (.stalled (.releasePending w) 0)))) ∧
    (∀ m : MemClass, s.part.arbiter.access.isSome = true ∧ s.part.classify q addr wr = .memory m →
      exec (.accessArrival q addr rd wr lanes data) s = .next (held (.requesting m)))

/-- A producer write to a line that is stale in the back is held in a touch wait, and its touch request is placed: an
IDLE touch copier takes it and begins the line, from latest to back, and is granted a free memory port; with the copier
busy or the line in copy already the entry is queued; behind the port's own earlier entry the request is deferred. -/
def Obligations.TouchWaitBegins : Prop :=
  ∀ (q : Port) (addr : Addr) (rd : Bool) (lanes : Lanes) (data : Word) (s : State) (w : Win) (sv : Service),
    s.quietFor q → s.part.logicalOf w sv addr → s.part.noTagWord w sv addr →
    sv.retiring = false → sv.geometry.producer = q → sv.releasePending = false →
    let line := sv.geometry.offset addr / 16
    lineIn sv.backStale line = true →
    let held := s.part.withPort q (.holding ⟨addr, true, lanes, data, .stalled (.touchWait w line) 0⟩)
    let queued (inService : Bool) : Part := { held with copy := { held.copy with
      queue := s.part.copy.queue ++ [⟨q, w, line, inService, false⟩] } }
    let source := sv.geometry.base sv.latest
    let target := sv.geometry.base sv.back
    let begun := (queued true).withTouch ⟨.copying w ⟨line, source, target, 0, .read⟩, s.part.copy.touch.holding⟩
    let readWord0 : MemAccess := .ofTouch false (source + BitVec.ofNat 20 (16 * line)) 0#16 s.part.arbiter.accessTime
    (s.part.copy.touch.work = .idle ∧ lineIn (s.part.inCopyLines w) line = false ∧
        (∀ e ∈ s.part.copy.queue, e.port ≠ q) →
      (s.part.memoryFree = true →
        exec (.accessArrival q addr rd true lanes data) s =
          .next (s.onPart { begun with arbiter := { s.part.arbiter with access := some readWord0 } })) ∧
      (s.part.arbiter.access.isSome = true →
        exec (.accessArrival q addr rd true lanes data) s = .next (s.onPart begun))) ∧
    ((s.part.copy.touch.work ≠ .idle ∨ lineIn (s.part.inCopyLines w) line = true) ∧
        (∀ e ∈ s.part.copy.queue, e.port ≠ q) →
      exec (.accessArrival q addr rd true lanes data) s = .next (s.onPart (queued false))) ∧
    ((∃ e ∈ s.part.copy.queue, e.port = q) →
      exec (.accessArrival q addr rd true lanes data) s =
        .next (s.onPart { held with copy := { held.copy with
          deferred := held.copy.deferred.set q (some (w, line)) } }))

/-! ## The Tag Block (05_tag_block.md) -/

/-- A SEQ read answers the consumer with the front's number, and pins a front that is not pinned where the live pin
limit is above 0; it answers the producer with the next number and never pins. A FILL read returns the front's fill to the
consumer and the size of the dirty set to the producer, a CONTROL read the age above the dropped count to either; neither
changes anything but the port. Any byte lanes. -/
def Obligations.SeqFillAndControlReads : Prop :=
  ∀ (q : Port) (w : Win) (lanes : Lanes) (data : Word) (s : State) (sv : Service), s.quietFor q →
    let r := s.part.record w
    let pinned := if 0 < (s.part.liveOf w).pinLimit ∧ sv.pin = none then some 0 else sv.pin
    let answered (p : Part) (d : Word) : State := s.onPart (p.withPort q (.answered (some d)))
    (s.part.tagOpen q w sv .seq →
      (sv.geometry.producer ≠ q →
        exec (.seqRead q w lanes) s = .next (answered (s.part.setService w { sv with pin := pinned }) r.frontNumber)) ∧
      (sv.geometry.producer = q → exec (.seqRead q w lanes) s = .next (answered s.part r.next))) ∧
    (s.part.tagOpen q w sv .fill ∧ r.frontFill ≤ 64 →
      exec (.accessArrival q (s.part.tagAddr w .fill) true false lanes data) s =
        .next (answered s.part
          (BitVec.ofNat 16 (if sv.geometry.producer ≠ q then r.frontFill else lineCount sv.dirty)))) ∧
    (s.part.tagOpen q w sv .control ∧ r.age ≤ 255 ∧ r.dropped ≤ 255 →
      exec (.accessArrival q (s.part.tagAddr w .control) true false lanes data) s =
        .next (answered s.part (BitVec.ofNat 16 (256 * r.age + r.dropped))))

/-- A STATUS read returns the port's pending notices for the window with the summary of its role, and clears that port's
notices for that window and nothing else. -/
def Obligations.StatusRead : Prop :=
  ∀ (q : Port) (w : Win) (lanes : Lanes) (s : State) (sv : Service), s.quietFor q → s.part.tagOpen q w sv .status →
    let n := s.part.notices.get q
    let consumer : Bool := decide (sv.geometry.producer ≠ q)
    ∃ d : Word,
      exec (.statusRead q w lanes) s =
        .next (s.onPart
          ({ s.part.withPort q (.answered (some d)) with
            notices := s.part.notices.set q { n with window := n.window.set w.val 0#8 w.isLt } })) ∧
      (∀ i, i < 8 → d.getLsbD i = n.window[w].getLsbD i) ∧
      d.getLsbD 8 = (consumer && sv.pin.isSome) ∧ d.getLsbD 9 = (consumer && sv.initial) ∧
      d.getLsbD 10 = (consumer && sv.late) ∧ d.getLsbD 11 = (consumer && sv.deferred) ∧
      d.getLsbD 12 = (!consumer && decide (sv.backStale ≠ 0#64)) ∧ d.getLsbD 13 = (!consumer && sv.carried) ∧
      d.getLsbD 14 = false ∧ d.getLsbD 15 = false

/-- A write to SEQ, STATUS or FILL is discarded with VIOLATION, from either role, with any lanes and any data; nothing
else changes, and a VIOLATION already pending stays there once. -/
def Obligations.TagWriteDiscarded : Prop :=
  ∀ (q : Port) (w : Win) (word : TagWord) (lanes : Lanes) (data : Word) (s : State) (sv : Service),
    word ≠ .control → s.quietFor q → s.part.tagOpen q w sv word →
    let n := s.part.notices.get q
    exec (.tagWrite q w word lanes data) s =
      .next (s.onPart
        ({ s.part.withPort q (.answered none) with
          notices := s.part.notices.set q { n with window := n.window.set w.val (n.window[w] ||| 0x20#8) w.isLt } }))

/-- A write to CONTROL without both lanes, or whose value is none of the role's, is refused: VIOLATION to the writing
port, and nothing else changes. -/
def Obligations.ControlWriteRefused : Prop :=
  ∀ (q : Port) (w : Win) (lanes : Lanes) (data : Word) (s : State) (sv : Service),
    s.quietFor q → s.part.tagOpen q w sv .control →
    lanes ≠ ⟨true, true⟩ ∨ (sv.geometry.producer = q ∧ data ≠ 0x0001#16 ∧ data ≠ 0x0002#16) ∨
      (sv.geometry.producer ≠ q ∧ data ≠ 0x0003#16) →
    let n := s.part.notices.get q
    exec (.controlWriteRefused q w lanes data) s =
      .next (s.onPart
        ({ s.part.withPort q (.answered none) with
          notices := s.part.notices.set q { n with window := n.window.set w.val (n.window[w] ||| 0x20#8) w.isLt } }))

/-- An unpin of a window that is not pinned is ignored; of a pinned one it ends the pin without notice, and a ready
image becomes front at once, LATE, with IMAGE_READY to the consumer. -/
def Obligations.Unpin : Prop :=
  ∀ (q : Port) (w : Win) (s : State) (sv : Service), sv.geometry.producer.other = q → s.quietFor q →
    s.part.tagOpen q w sv .control →
    let p := s.part.withPort q (.answered none)
    (sv.pin = none → exec (.unpin w) s = .next (s.onPart p)) ∧
    (sv.pin ≠ none ∧ sv.ready = none →
      exec (.unpin w) s = .next (s.onPart (p.setService w { sv with pin := none }))) ∧
    (∀ image : ReadyImage, sv.pin ≠ none ∧ sv.ready = some image →
      let shown : Service := { sv with
        front := image.bank, ready := none, pin := none, initial := false, late := true, deferred := false }
      exec (.unpin w) s =
        .next (s.onPart
          ((p.setRecord w { s.part.record w with
            frontNumber := image.number, frontFill := image.fill, age := 0, service := some shown }).note q w
            .imageReady)))

/-- An abandon moves the dirty lines into the back's own stale set. A window with work left then keeps its place or its
channel, and a channel that served it without a line begins the lowest one; one that neither waits nor is served joins the
waiting list, where an IDLE unmasked channel takes it at once. -/
def Obligations.Abandon : Prop :=
  ∀ (q : Port) (w : Win) (s : State) (sv : Service), sv.geometry.producer = q → s.quietFor q →
    s.part.tagOpen q w sv .control →
    let left : Service := { sv with stale := sv.stale.set sv.back (sv.backStale ||| sv.dirty), dirty := 0#64 }
    let p := (s.part.withPort q (.answered none)).setService w left
    let free := left.backStale &&& ~~~ s.part.inCopyLines w
    (s.part.noChannelWaitsIn w ∧ (s.part.copyStatus w ≠ .none ∨ left.backStale = 0#64) →
      exec (.abandon w) s = .next (s.onPart p)) ∧
    (∀ c line, (s.part.channel c).work = .serving w .catchUp none ∧
        (∀ d, d ≠ c → ∀ job, (s.part.channel d).work ≠ .serving w job none) ∧ lowestLine? free = some line →
      exec (.abandon w) s = .next (s.onPart (p.jobTaken c w .catchUp left line))) ∧
    (s.part.copyStatus w = .none ∧ left.backStale ≠ 0#64 ∧ s.part.freeChannel? = none →
      exec (.abandon w) s =
        .next (s.onPart (p.setWaiting (s.part.copy.waiting ++ [⟨w, .catchUp, false⟩])))) ∧
    (∀ c line, s.part.copyStatus w = .none ∧ s.part.freeChannel? = some c ∧ lowestLine? free = some line →
      exec (.abandon w) s = .next (s.onPart (p.jobTaken c w .catchUp left line)))

/-- An explicit release that finds the back caught up is performed in the event: the back becomes the ready image with
the next number and the dirty set's size as its fill, the dropped ready bank (with DROPPED to the consumer) or the spare
becomes the new back, the two other banks gain the dirty lines; BACK_READY is noted to the producer if the new back is
up to date, else the window joins for CATCH_UP. -/
def Obligations.ExplicitReleaseAtOnce : Prop :=
  ∀ (q : Port) (w : Win) (s : State) (sv : Service) (new : Bank), sv.geometry.producer = q → s.quietFor q →
    s.part.tagOpen q w sv .control → sv.rolesDistinct = true → sv.backStale = 0#64 → s.part.inCopyLines w = 0#64 →
    (∀ image, sv.ready = some image → new = image.bank) → (sv.ready = none → new ≠ sv.front ∧ new ≠ sv.back) →
    let r := s.part.record w
    let gained (k : Bank) : LineSet := if k = sv.back then sv.stale.get k else sv.stale.get k ||| sv.dirty
    let after : Service := { sv with
      ready := some ⟨sv.back, r.next, lineCount sv.dirty⟩, back := new
      stale := ⟨gained .b0, gained .b1, gained .b2⟩, dirty := 0#64, releasePending := false, carried := false }
    let answered := s.part.withPort q (.answered none)
    let noted := if sv.ready.isSome then answered.note q.other w .dropped else answered
    let p := noted.setRecord w { r with
      next := r.next + 1#16, dropped := if sv.ready.isSome then min (r.dropped + 1) 255 else r.dropped
      service := some after }
    (gained new = 0#64 → exec (.explicitRelease w) s = .next (s.onPart (p.note q w .backReady))) ∧
    (gained new ≠ 0#64 ∧ s.part.copyStatus w = .none ∧ s.part.freeChannel? = none →
      exec (.explicitRelease w) s =
        .next (s.onPart (p.setWaiting (s.part.copy.waiting ++ [⟨w, .catchUp, false⟩])))) ∧
    (∀ c line, s.part.copyStatus w = .none ∧ s.part.freeChannel? = some c ∧ lowestLine? (gained new) = some line →
      exec (.explicitRelease w) s = .next (s.onPart (p.jobTaken c w .catchUp after line)))

/-- An explicit release that finds the back not caught up sets RELEASE_PENDING and promotes the window's waiting entry
to directly behind the entries promoted before it; an entry promoted already, and a served window, stay where they are. -/
def Obligations.ExplicitReleasePending : Prop :=
  ∀ (q : Port) (w : Win) (s : State) (sv : Service), sv.geometry.producer = q → s.quietFor q →
    s.part.tagOpen q w sv .control → s.part.waitingOk = true →
    sv.backStale ≠ 0#64 ∨ s.part.inCopyLines w ≠ 0#64 →
    let p := (s.part.withPort q (.answered none)).setService w { sv with releasePending := true }
    let l := s.part.copy.waiting
    (∀ job, (⟨w, job, false⟩ : WaitEntry) ∈ l →
      exec (.explicitRelease w) s =
        .next (s.onPart (p.setWaiting
          (l.filter (fun e => e.promoted) ++ [⟨w, job, true⟩] ++
            l.filter (fun e => !e.promoted && decide (e.window ≠ w)))))) ∧
    ((∀ e ∈ l, e.window = w → e.promoted = true) → exec (.explicitRelease w) s = .next (s.onPart p))

/-! ## Memory accesses that complete (02_access_resolution.md, 04_copy_engine.md, 08_memory_port_and_arbitration.md) -/

/-- A port's read completes: WAIT is released, the word, its enabled lanes from memory, is driven while the bus cycle
lasts, and the memory port is free. A disabled lane, and every lane of a memory slower than the access time, is a free
value (log entry 3). -/
def Obligations.PortReadCompletes : Prop :=
  ∀ (q : Port) (m : MemAccess) (s : State),
    s.part.arbiter.access = some m → m.requestor = .port q → m.write = false → m.kind = .single →
    s.part.softReset = .none → s.part.atRest = true → s.part.onlyPortActive q →
    let busy := (s.part.ports.get q).busCycle
    ∃ d : Word,
      exec .memoryAccessCompletion s =
        .next { (s.onPart { s.part.withPort q ⟨none, if busy then some d else none, busy⟩ with
          arbiter := { s.part.arbiter with access := none } }) with freeIndex := s.freeIndex + 1 } ∧
      (s.sramTime ≤ m.time →
        (m.lanes.lower = true → d.extractLsb' 0 8 = s.mem.readByte (2 * m.addr.toNat)) ∧
        (m.lanes.upper = true → d.extractLsb' 8 8 = s.mem.readByte (2 * m.addr.toNat + 1)))

/-- A port's write, alone or the write half of a pair, completes: its enabled lanes stand in memory and every other byte
is as before, WAIT is released, and the memory port is free. Where the memory is slower than the access time the write may
not take: memory is then written or as it was (R137; log entries 3 and 4). -/
def Obligations.PortWriteCompletes : Prop :=
  ∀ (q : Port) (m : MemAccess) (s : State),
    s.part.arbiter.access = some m → m.requestor = .port q → m.write = true → m.kind = .single ∨ m.kind = .pairWrite →
    s.part.softReset = .none → s.part.atRest = true → s.part.onlyPortActive q → s.mem.wf = true →
    ∃ mem' : Memory,
      exec .memoryAccessCompletion s =
        .next { (s.onPart { s.part.withPort q ⟨none, none, (s.part.ports.get q).busCycle⟩ with
          arbiter := { s.part.arbiter with access := none } }) with mem := mem', freeIndex := s.freeIndex + 1 } ∧
      s.mem.afterWrite mem' m (decide (m.time < s.sramTime))

/-- At the completion of a pair's read half the write half of the merged word begins at the same address with both
lanes, without a choice and whatever else requests: a bit whose mask bit is 1 and whose lane is enabled is the write
data's; any other bit is the back word's, but where the memory is slower than the access time, when the part reads what
the memory drives, a free value (R137; log entries 3 and 4). -/
def Obligations.PairWriteHalfBegins : Prop :=
  ∀ (q : Port) (a : Access) (mask : Word) (m : MemAccess) (s : State),
    s.part.arbiter.access = some m → m.requestor = .port q → m.kind = .pairRead mask → m.write = false →
    m.lanes = ⟨true, true⟩ → s.part.accessOf q = some a →
    ∃ d : Word,
      exec .memoryAccessCompletion s =
        .next { (s.onPart { s.part with
          arbiter := { s.part.arbiter with
            access := some { m with write := true, data := d, kind := .pairWrite } } }) with
            freeIndex := s.freeIndex + 1 } ∧
      ∀ i, i < 16 →
        let taken := mask.getLsbD i = true ∧ (if i < 8 then a.lanes.lower else a.lanes.upper) = true
        (taken → d.getLsbD i = a.data.getLsbD i) ∧
        (¬ taken ∧ s.sramTime ≤ m.time →
          d.getLsbD i = if i < 8 then (s.mem.readByte (2 * m.addr.toNat)).getLsbD i
            else (s.mem.readByte (2 * m.addr.toNat + 1)).getLsbD (i - 8))

/-- A copier moves one word: at the completion of its read the word is in the holding word and its write to the same
offset of the target is granted; at the completion of that write, before word 15, the position advances and the next
read is granted. The touch copier's next half is granted whatever else requests and moves no choice state; a channel's
where nothing else requests. What a memory slower than the access time returns or takes is free (log entries 3, 4). -/
def Obligations.CopiersMoveOneWord : Prop :=
  ∀ (cp : LineCopy) (m : MemAccess) (s : State),
    s.part.arbiter.access = some m → m.lanes = ⟨true, true⟩ → m.kind = .single → s.part.softReset = .none →
    s.part.atRest = true → s.mem.wf = true →
    let time := s.part.arbiter.accessTime
    let slow := decide (m.time < s.sramTime)
    let writeAddr := cp.target + BitVec.ofNat 20 (16 * cp.line + cp.word.val)
    let readAddr := cp.source + BitVec.ofNat 20 (16 * cp.line + (cp.word.val + 1))
    let read (d : Word) : Prop :=
      s.sramTime ≤ m.time → d = s.mem.readByte (2 * m.addr.toNat + 1) ++ s.mem.readByte (2 * m.addr.toNat)
    let toWrite : LineCopy := { cp with half := .write }
    let toRead : LineCopy := { cp with word := cp.word + 1, half := .read }
    let moved (p : Part) (mem : Memory) : State := { (s.onPart p) with mem := mem, freeIndex := s.freeIndex + 1 }
    (∀ c, m.requestor = .channel c ∧ (s.part.channel c).work.lineCopy? = some cp ∧ s.part.onlyChannelActive c →
      let ch := s.part.channel c
      let granted (p : Part) (a : MemAccess) : Part := { p with arbiter := s.part.arbiter.grantedToChannel c a }
      (m.write = false → ∃ d, read d ∧ exec .memoryAccessCompletion s =
        .next (moved (granted (s.part.setChannel c { ch with work := ch.work.withCopy toWrite, holding := d })
          (.ofChannel c true writeAddr d time)) s.mem)) ∧
      (m.write = true ∧ cp.word.val < 15 → ∃ mem', s.mem.afterWrite mem' m slow ∧ exec .memoryAccessCompletion s =
        .next (moved (granted (s.part.setChannel c { ch with work := ch.work.withCopy toRead })
          (.ofChannel c false readAddr 0#16 time)) mem'))) ∧
    (m.requestor = .touch ∧ s.part.copy.touch.work.lineCopy? = some cp →
      let t := s.part.copy.touch
      let granted (p : Part) (a : MemAccess) : Part := { p with arbiter := { s.part.arbiter with access := some a } }
      (m.write = false → ∃ d, read d ∧ exec .memoryAccessCompletion s =
        .next (moved (granted (s.part.withTouch ⟨t.work.withCopy toWrite, d⟩) (.ofTouch true writeAddr d time)) s.mem)) ∧
      (m.write = true ∧ cp.word.val < 15 → ∃ mem', s.mem.afterWrite mem' m slow ∧ exec .memoryAccessCompletion s =
        .next (moved (granted (s.part.withTouch ⟨t.work.withCopy toRead, t.holding⟩)
          (.ofTouch false readAddr 0#16 time)) mem')))

/-- The write of word 15 of a CATCH_UP line: the line leaves the back's stale set; an unmasked channel goes on with the
lowest stale line that is not in copy; with the stale set empty and no line in copy the job is complete, the channel
IDLE, and BACK_READY noted to the producer. No touch entry, waiting entry or pending release stands in the way. -/
def Obligations.CatchUpLineEnds : Prop :=
  ∀ (c : Chan) (w : Win) (sv : Service) (cp : LineCopy) (m : MemAccess) (s : State),
    s.part.arbiter.access = some m → m.requestor = .channel c → m.kind = .single → m.write = true → cp.word = 15 →
    s.part.softReset = .none → s.part.atRest = true → s.part.onlyChannelActive c → s.mem.wf = true →
    (s.part.channel c).work = .serving w .catchUp (some cp) → s.part.service w = some sv → sv.releasePending = false →
    s.part.copy.queue = [] → s.part.copy.waiting = [] → cp.target = sv.geometry.base sv.back →
    sv.geometry.logicalBase ≠ sv.geometry.bank1Base → sv.geometry.logicalBase ≠ sv.geometry.bank2Base →
    sv.geometry.bank1Base ≠ sv.geometry.bank2Base →
    (∀ d, d ≠ c → ∀ job cp', (s.part.channel d).work ≠ .serving w job cp') →
    (∀ q a n line, s.part.accessOf q = some a → a.phase ≠ .stalled (.touchWait w line) n) →
    let stale := sv.backStale &&& ~~~ BitVec.twoPow 64 cp.line
    let p := s.part.setService w { sv with stale := sv.stale.set sv.back stale }
    ∃ mem' : Memory, s.mem.afterWrite mem' m (decide (m.time < s.sramTime)) ∧
      (∀ line, (s.part.channel c).masked = false ∧ lowestLine? stale = some line →
        let next : LineCopy := ⟨line, sv.geometry.base sv.latest, sv.geometry.base sv.back, 0, .read⟩
        exec .memoryAccessCompletion s =
          .next { (s.onPart
            { p.setChannelWork c (.serving w .catchUp (some next)) with
              arbiter := s.part.arbiter.grantedToChannel c
                (.ofChannel c false (next.source + BitVec.ofNat 20 (16 * line)) 0#16 s.part.arbiter.accessTime) }) with
            mem := mem', freeIndex := s.freeIndex + 1 }) ∧
      (stale = 0#64 →
        exec .memoryAccessCompletion s =
          .next { (s.onPart
            { (p.setChannelWork c .idle).note sv.geometry.producer w .backReady with
              arbiter := { s.part.arbiter with access := none } }) with
            mem := mem', freeIndex := s.freeIndex + 1 })

/-- A pending release is performed at the completion of the CATCH_UP job that a channel's last line ends: BACK_READY is
noted, then the back becomes the ready image (a ready image found there is dropped), with RELEASE_PENDING clear. With the
new back caught up, a read that the producer had held is granted there; with lines stale in it the window joins again, and
the lowest-numbered IDLE unmasked channel, if there is one, takes it. -/
def Obligations.PendingReleasePerformed : Prop :=
  ∀ (c : Chan) (w : Win) (sv : Service) (cp : LineCopy) (new : Bank) (m : MemAccess) (s : State),
    s.part.arbiter.access = some m → m.requestor = .channel c → m.kind = .single → m.write = true → cp.word = 15 →
    s.part.softReset = .none → s.part.atRest = true → s.part.onlyChannelActive c → s.mem.wf = true →
    (s.part.channel c).work = .serving w .catchUp (some cp) → s.part.service w = some sv → sv.retiring = false →
    sv.releasePending = true → sv.rolesDistinct = true → s.part.copy.queue = [] → s.part.copy.waiting = [] →
    cp.target = sv.geometry.base sv.back → sv.geometry.logicalBase ≠ sv.geometry.bank1Base →
    sv.geometry.logicalBase ≠ sv.geometry.bank2Base → sv.geometry.bank1Base ≠ sv.geometry.bank2Base →
    (∀ d, d ≠ c → ∀ job cp', (s.part.channel d).work ≠ .serving w job cp') →
    sv.backStale &&& ~~~ BitVec.twoPow 64 cp.line = 0#64 →
    (∀ image, sv.ready = some image → new = image.bank) → (sv.ready = none → new ≠ sv.front ∧ new ≠ sv.back) →
    let r := s.part.record w
    let producer := sv.geometry.producer
    let gained (k : Bank) : LineSet := if k = sv.back then 0#64 else sv.stale.get k ||| sv.dirty
    let after : Service := { sv with
      ready := some ⟨sv.back, r.next, lineCount sv.dirty⟩, back := new
      stale := ⟨gained .b0, gained .b1, gained .b2⟩, dirty := 0#64, releasePending := false, carried := false }
    let caughtUp := s.part.note producer w .backReady
    let noted := if sv.ready.isSome then caughtUp.note producer.other w .dropped else caughtUp
    let released := noted.setRecord w { r with
      next := r.next + 1#16, dropped := if sv.ready.isSome then (if r.dropped < 255 then r.dropped + 1 else 255) else r.dropped
      service := some after }
    let free (p : Part) : Part := { p with arbiter := { s.part.arbiter with access := none } }
    let noneHeld (x : Port) : Prop := ∀ a st n, s.part.accessOf x = some a → a.phase = .stalled st n → st.window ≠ w
    ∃ mem' : Memory, s.mem.afterWrite mem' m (decide (m.time < s.sramTime)) ∧
      let result (p : Part) : State := { (s.onPart p) with mem := mem', freeIndex := s.freeIndex + 1 }
      (gained new = 0#64 ∧ noneHeld .a ∧ noneHeld .b →
        exec .memoryAccessCompletion s = .next (result (free (released.setChannelWork c .idle)))) ∧
      (∀ a n, gained new = 0#64 ∧ s.part.accessOf producer = some a ∧ a.phase = .stalled (.releasePending w) n ∧
          a.write = false ∧ s.part.logicalOf w sv a.addr ∧ s.part.noTagWord w sv a.addr ∧
          noneHeld producer.other →
        let mr : MemAccess := .ofPort producer false
          (sv.geometry.base new + BitVec.ofNat 20 (sv.geometry.offset a.addr)) a.lanes a.data s.part.arbiter.accessTime
        exec .memoryAccessCompletion s =
          .next (result { (released.setChannelWork c .idle).withPort producer
            { s.part.ports.get producer with access := some { a with phase := .granted (.producerRead w) } } with
            arbiter := s.part.arbiter.grantedTo producer mr })) ∧
      (∀ line, lowestLine? (gained new) = some line ∧ noneHeld .a ∧ noneHeld .b →
        (∀ d, (s.part.setChannelWork c .idle).freeChannel? = some d →
          exec .memoryAccessCompletion s =
            .next (result ((free (released.setChannelWork c .idle)).jobTaken d w .catchUp after line))) ∧
        ((s.part.setChannelWork c .idle).freeChannel? = none →
          exec .memoryAccessCompletion s =
            .next (result (free ((released.setChannelWork c .idle).setWaiting [⟨w, .catchUp, false⟩])))))

/-- The write of word 15 of the last stale line of bank 0 completes a RETIRE job: the window is OFF and its service
state gone, RETIRED is noted to both ports, and in STOPPING, with no other window in service, the part reaches STANDBY:
the timer stops, a pending period becomes the period, STANDBY_REACHED is noted. An access that the window's RETIRING stall
held, at an address of no other window, is classified anew and passes through to that address, granted at once; of two,
the port not granted last goes first, and the other requests. -/
def Obligations.RetireCompletes : Prop :=
  ∀ (c : Chan) (w : Win) (sv : Service) (cp : LineCopy) (m : MemAccess) (s : State),
    s.part.arbiter.access = some m → m.requestor = .channel c → m.kind = .single → m.write = true → cp.word = 15 →
    s.part.softReset = .none → s.part.atRest = true → s.part.onlyChannelActive c → s.mem.wf = true →
    (s.part.channel c).work = .serving w .retire (some cp) → s.part.service w = some sv →
    cp.target = sv.geometry.logicalBase → sv.stale.b0 &&& ~~~ BitVec.twoPow 64 cp.line = 0#64 →
    (∀ d, d ≠ c → ∀ job cp', (s.part.channel d).work ≠ .serving w job cp') → s.part.copy.waiting = [] →
    s.part.copy.queue = [] →
    let off := ((s.part.setRecord w { s.part.record w with service := none }).setChannelWork c .idle).noteBoth w .retired
    let t := s.part.timer
    let stopped : Timer :=
      { t with running := false, syncOut := false, period := t.pending.getD t.period, pending := none }
    let lastOne := s.part.opState = .stopping ∧ ∀ v, v ≠ w → s.part.service v = none
    let notLast := s.part.opState = .run ∨ ∃ v, v ≠ w ∧ s.part.service v ≠ none
    let noneHeld (q : Port) : Prop := ∀ a st n, s.part.accessOf q = some a → a.phase = .stalled st n → st.window ≠ w
    let held (q : Port) (a : Access) : Prop :=
      s.part.accessOf q = some a ∧ (∃ n, a.phase = .stalled (.retiring w) n) ∧ s.part.noOtherHolds w a.addr
    let inPhase (a : Access) (phase : Phase) (q : Port) (p : Part) : Part :=
      p.withPort q { s.part.ports.get q with access := some { a with phase := phase } }
    let given (q : Port) (a : Access) : Arbiter :=
      s.part.arbiter.grantedTo q (.ofPort q a.write a.addr a.lanes a.data s.part.arbiter.accessTime)
    ∃ mem' : Memory, s.mem.afterWrite mem' m (decide (m.time < s.sramTime)) ∧
      ∀ stops : Bool, (if stops then lastOne else notLast) →
        let result (p : Part) (arbiter : Arbiter) : State :=
          let left := if stops then ({ p with opState := .standby, timer := stopped }).noteGlobal .standbyReached else p
          { (s.onPart { left with arbiter := arbiter }) with mem := mem', freeIndex := s.freeIndex + 1 }
        (noneHeld .a ∧ noneHeld .b →
          exec .memoryAccessCompletion s = .next (result off { s.part.arbiter with access := none })) ∧
        (∀ q a, held q a ∧ noneHeld q.other →
          exec .memoryAccessCompletion s = .next (result (inPhase a (.granted .passThrough) q off) (given q a))) ∧
        (∀ q a b, held q a ∧ held q.other b ∧ s.part.arbiter.lastPort = q.other →
          exec .memoryAccessCompletion s =
            .next (result (inPhase b (.requesting .passThrough) q.other (inPhase a (.granted .passThrough) q off))
              (given q a)))

/-- The end of a touch copy, the write of word 15: the line leaves its target's stale set, the in-service entry goes, the
touch copier is IDLE. Of a LIVE window the held write is classified anew: it goes to the back, granted, and its line is
dirty; a CATCH_UP job thereby complete, waiting or served, ends with BACK_READY. Of a RETIRING window the write is held in
a RETIRING stall from a fresh start time, only now. A write that the stall limit ended is followed by none. No other entry
and no other request stands in the way. -/
def Obligations.TouchCopyEnds : Prop :=
  ∀ (q : Port) (w : Win) (sv : Service) (cp : LineCopy) (ended : Bool) (m : MemAccess) (s : State),
    s.part.arbiter.access = some m → m.requestor = .touch → m.kind = .single → m.write = true → cp.word = 15 →
    s.part.softReset = .none → s.part.atRest = true → s.part.onlyTouchActive → s.mem.wf = true →
    s.part.copy.touch.work = .copying w cp → s.part.service w = some sv → sv.releasePending = false →
    s.part.copy.queue = [⟨q, w, cp.line, true, ended⟩] → s.part.copy.deferred = ⟨none, none⟩ →
    (∀ b k, s.part.accessOf q.other = some b → b.phase ≠ .stalled (.touchWait w cp.line) k) →
    cp.target = sv.geometry.base sv.back → sv.geometry.logicalBase ≠ sv.geometry.bank1Base →
    sv.geometry.logicalBase ≠ sv.geometry.bank2Base → sv.geometry.bank1Base ≠ sv.geometry.bank2Base →
    let stale := sv.backStale &&& ~~~ BitVec.twoPow 64 cp.line
    let left : Service := { sv with stale := sv.stale.set sv.back stale }
    let touched := s.part.withTouch ⟨.idle, s.part.copy.touch.holding⟩
    let p := ({ touched with copy := { touched.copy with queue := [] } }).setService w left
    let result (p : Part) (access : Option MemAccess) (mem : Memory) : State :=
      { (s.onPart { p with arbiter := { p.arbiter with access := access } }) with
        mem := mem, freeIndex := s.freeIndex + 1 }
    ∃ mem' : Memory, s.mem.afterWrite mem' m (decide (m.time < s.sramTime)) ∧
      (∀ a n, sv.retiring = false ∧ s.part.accessOf q = some a ∧ a.phase = .stalled (.touchWait w cp.line) n ∧
          a.write = true ∧ ended = false ∧ sv.geometry.producer = q ∧ s.part.logicalOf w sv a.addr ∧
          s.part.noTagWord w sv a.addr ∧ sv.geometry.offset a.addr / 16 = cp.line ∧
          (s.part.liveOf w).writeMask = 0xFFFF#16 ∧ (s.part.ports.get q).busCycle = true →
        let written (p : Part) : State :=
          let mw : MemAccess := .ofPort q true (sv.geometry.base sv.back + BitVec.ofNat 20 (sv.geometry.offset a.addr))
            a.lanes a.data s.part.arbiter.accessTime
          let granted := { (p.setService w { left with dirty := sv.dirty ||| BitVec.twoPow 64 cp.line }).withPort q
            ⟨some { a with phase := .granted (.producerWrite w false) }, (s.part.ports.get q).readData, true⟩ with
            arbiter := s.part.arbiter.grantedTo q mw }
          { (s.onPart granted) with mem := mem', freeIndex := s.freeIndex + 1 }
        (stale ≠ 0#64 ∧ s.part.noChannelWaitsIn w ∧ s.part.jobOf w ≠ some .retire →
          exec .memoryAccessCompletion s = .next (written p)) ∧
        (stale = 0#64 ∧ s.part.servedBy w = none ∧ (∃ e ∈ s.part.copy.waiting, e.window = w ∧ e.job = .catchUp) ∧
            s.part.waitingOk = true →
          exec .memoryAccessCompletion s =
            .next (written ((p.setWaiting (s.part.copy.waiting.filter (fun e => e.window ≠ w))).note q w .backReady))) ∧
        (∀ c, stale = 0#64 ∧ (s.part.channel c).work = .serving w .catchUp none ∧ s.part.copy.waiting = [] ∧
            s.part.waitingOk = true →
          exec .memoryAccessCompletion s = .next (written ((p.setChannelWork c .idle).note q w .backReady)))) ∧
      (∀ a n, sv.retiring = true ∧ s.part.accessOf q = some a ∧ a.phase = .stalled (.touchWait w cp.line) n ∧
          ended = false ∧ s.part.logicalOf w sv a.addr ∧ left.stale.b0 ≠ 0#64 ∧ s.part.noChannelWaitsIn w ∧
          s.part.jobOf w = some .retire →
        exec .memoryAccessCompletion s =
          .next (result (p.withPort q ⟨some { a with phase := .stalled (.retiring w) 0 },
            (s.part.ports.get q).readData, (s.part.ports.get q).busCycle⟩) none mem')) ∧
      (ended = true ∧ s.part.noChannelWaitsIn w ∧ (∀ a n, s.part.accessOf q = some a →
          a.phase ≠ .stalled (.touchWait w cp.line) n) ∧
          ((sv.retiring = false ∧ stale ≠ 0#64 ∧ s.part.jobOf w = some .catchUp) ∨
            (sv.retiring = true ∧ left.stale.b0 ≠ 0#64 ∧ s.part.jobOf w = some .retire)) →
        exec .memoryAccessCompletion s = .next (result p none mem'))

/-- The end of a drained line, the write of word 15: nothing changes in any window and nothing is noted. The channel is
IDLE, and takes the head of the waiting list if it is unmasked; the touch copier is IDLE, and takes the oldest queued entry
whose line is not in copy. -/
def Obligations.DrainEnds : Prop :=
  ∀ (w : Win) (cp : LineCopy) (m : MemAccess) (s : State),
    s.part.arbiter.access = some m → m.kind = .single → m.write = true → cp.word = 15 → s.part.softReset = .none →
    s.part.atRest = true → s.mem.wf = true → s.part.copy.deferred = ⟨none, none⟩ →
    ∃ mem' : Memory, s.mem.afterWrite mem' m (decide (m.time < s.sramTime)) ∧
      let result (p : Part) : State := { (s.onPart p) with mem := mem', freeIndex := s.freeIndex + 1 }
      let freed (p : Part) : Part := { p with arbiter := { s.part.arbiter with access := none } }
      (∀ c, m.requestor = .channel c ∧ (s.part.channel c).work = .draining w cp ∧ s.part.onlyChannelActive c →
        let p := freed (s.part.setChannelWork c .idle)
        ((s.part.channel c).masked = true ∨ s.part.copy.waiting = [] →
          exec .memoryAccessCompletion s = .next (result p)) ∧
        (∀ e rest sv line, (s.part.channel c).masked = false ∧ s.part.copy.waiting = e :: rest ∧
            s.part.waitingOk = true ∧ s.part.service e.window = some sv ∧
            lowestLine? (sv.stale.get (match e.job with | .catchUp => sv.back | .retire => .b0)) = some line →
          exec .memoryAccessCompletion s = .next (result ((p.setWaiting rest).jobTaken c e.window e.job sv line)))) ∧
      (m.requestor = .touch ∧ s.part.copy.touch.work = .draining w cp →
        let p := s.part.withTouch ⟨.idle, s.part.copy.touch.holding⟩
        (s.part.onlyTouchActive ∧ s.part.copy.queue = [] → exec .memoryAccessCompletion s = .next (result (freed p))) ∧
        (∀ before e after sv, s.part.copy.queue = before ++ e :: after ∧ e.inService = false ∧
            (∀ x ∈ before, x.inService = false ∧ lineIn (s.part.inCopyLines x.window) x.line = true) ∧
            lineIn (s.part.inCopyLines e.window) e.line = false ∧ (∀ x ∈ before ++ after, x.port ≠ e.port) ∧
            s.part.service e.window = some sv →
          let next : LineCopy := ⟨e.line, sv.geometry.base sv.latest, sv.geometry.base sv.back, 0, .read⟩
          let taken := p.withTouch ⟨.copying e.window next, s.part.copy.touch.holding⟩
          exec .memoryAccessCompletion s =
            .next (result { taken with
              copy := { taken.copy with queue := before ++ { e with inService := true } :: after }
              arbiter := { s.part.arbiter with
                access := some (.ofTouch false (next.source + BitVec.ofNat 20 (16 * e.line)) 0#16
                  s.part.arbiter.accessTime) } })))

/-! ## Ticks, stalls and boundaries (02_access_resolution.md, 06_cycle_boundaries.md) -/

/-- A tick that makes no boundary and ends no stall: the count rises, SYNC_OUT goes low, every stall that stands has one
more tick; with the timer stopped no tick falls. The counter of the free values moves on (log entries 3 and 6). -/
def Obligations.TickCounts : Prop :=
  ∀ s : State,
    (s.part.timer.running = false → exec .tick s = .next s) ∧
    (s.part.timer.running = true ∧ s.part.timer.noBoundaryNext ∧ s.part.noTimeoutNext .a ∧ s.part.noTimeoutNext .b →
      exec .tick s =
        .next { (s.onPart { s.part with
          timer := s.part.timer.counted, ports := ⟨s.part.ports.a.tick, s.part.ports.b.tick⟩ }) with
          freeIndex := s.freeIndex + 1 })

/-- At a tick a stall that comes to its limit completes its access without memory: a read returns 0xFFFF, a write is
discarded, and STALL_TIMEOUT is noted to the port for the window that held it. Where the tick makes no boundary nothing
else changes but that a touch wait's queued entry and deferred request go, and its entry in service stays, its write ended.
The row is that tick, and nothing where no stall of the port reaches the limit, or the timer is stopped (log entry 5). -/
def Obligations.StallLimitReached : Prop :=
  ∀ (q : Port) (s : State),
    (∀ (a : Access) (st : Stall) (n : Nat), s.part.accessOf q = some a ∧ a.phase = .stalled st n ∧
        s.part.timer.running = true ∧ s.part.softReset ≠ .draining ∧ 0 < s.part.stallLimit ∧ s.part.stallLimit ≤ n + 1 →
      let busy := (s.part.ports.get q).busCycle
      let ended : PortIf := ⟨none, if busy ∧ a.write = false then some 0xFFFF#16 else none, busy⟩
      let ticked : Part := { s.part with
        timer := s.part.timer.counted, ports := ⟨s.part.ports.a.tick, s.part.ports.b.tick⟩ }
      let p := (ticked.withPort q ended).note q st.window .stallTimeout
      let untouched : Part := { p with copy := { p.copy with
        queue := (p.copy.queue.filter (fun e => decide (e.port ≠ q) || e.inService)).map
          (fun e => if e.port = q then { e with writeEnded := true } else e)
        deferred := p.copy.deferred.set q none } }
      (∃ t, exec (.stallLimitReached q) s = .next t ∧ t.part.ports.get q = ended ∧
        ((t.part.notices.get q).window[st.window]).getLsbD Notice.stallTimeout.bit = true) ∧
      (s.part.timer.noBoundaryNext ∧ s.part.noTimeoutNext q.other →
        exec (.stallLimitReached q) s =
          .next (s.onPart (match st with | .touchWait _ _ => untouched | _ => p)))) ∧
    (s.part.timer.running = false ∨ s.part.noTimeoutNext q → exec (.stallLimitReached q) s = .next s)

/-- The tick at which the count makes a boundary: under INTERNAL at the period, in FLYWHEEL at the period, under EXTERNAL
and LOCKED at the period plus the guard, where the lock is lost. SYNC_OUT rises under INTERNAL alone. Where no stall comes
to its limit at that tick, the state after it is the boundary's (Part.boundaryAt: the apply, then each window), settled; a
boundary in STOPPING reaches no window. Each row is its own tick, and nothing at any other (log entry 5). -/
def Obligations.CountMakesBoundary : Prop :=
  ∀ s : State,
    let t := s.part.timer
    let period := t.running = true ∧ t.source = .internal ∧ t.period ≤ t.count + 1
    let flywheel := t.running = true ∧ t.source = .external ∧ t.sync = .flywheel ∧ t.period ≤ t.count + 1
    let loss := t.running = true ∧ t.source = .external ∧ t.sync = .locked ∧ t.period + t.guardTicks ≤ t.count + 1
    let ticked : Part := { s.part with ports := ⟨s.part.ports.a.tick, s.part.ports.b.tick⟩ }
    let lost (p : Part) : Part := ({ p with timer := { p.timer with sync := .flywheel } }).noteGlobal .syncLost
    let noTimeout := s.part.noTimeoutNext .a ∧ s.part.noTimeoutNext .b
    let retiringOnly := s.part.opState = .stopping ∧ (∀ w sv, s.part.service w = some sv → sv.retiring = true) ∧
      s.part.atRest = true ∧ s.part.noIdleRequest = true
    let quiet (timer : Timer) : Part := ({ ticked with timer := timer }).noteGlobal .boundary
    (period →
      (noTimeout → exec .periodBoundary s = .next (s.onPart (ticked.boundaryAt (t.atBoundary true)).settle)) ∧
      (noTimeout ∧ retiringOnly → exec .periodBoundary s = .next (s.onPart (quiet (t.atBoundary true)))) ∧
      (s.part.opState = .run →
        ∃ p, exec .periodBoundary s = .next (s.onPart p) ∧ s.part.boundaryMade p (t.atBoundary true))) ∧
    (flywheel →
      (noTimeout → exec .flywheelBoundary s = .next (s.onPart (ticked.boundaryAt (t.atBoundary false)).settle)) ∧
      (noTimeout ∧ retiringOnly → exec .flywheelBoundary s = .next (s.onPart (quiet (t.atBoundary false)))) ∧
      (s.part.opState = .run →
        ∃ p, exec .flywheelBoundary s = .next (s.onPart p) ∧ s.part.boundaryMade p (t.atBoundary false))) ∧
    (loss →
      (noTimeout → exec .syncLoss s = .next (s.onPart (lost (ticked.boundaryAt (t.atBoundary false))).settle)) ∧
      (noTimeout ∧ retiringOnly → exec .syncLoss s = .next (s.onPart (lost (quiet (t.atBoundary false))))) ∧
      (s.part.opState = .run →
        ∃ p, exec .syncLoss s = .next (s.onPart p) ∧ s.part.globalPending p .syncLost ∧
          s.part.boundaryMade p { t.atBoundary false with sync := .flywheel })) ∧
    (¬ period → exec .periodBoundary s = .next s) ∧ (¬ flywheel → exec .flywheelBoundary s = .next s) ∧
    (¬ loss → exec .syncLoss s = .next s)

/-- A rising edge on SYNC_IN is looked at in EXTERNAL while the timer runs: LOCKED, at a count of 0 or 1 it is a runt and
changes nothing, later it makes a boundary; in FLYWHEEL, within the guard it realigns the count without a boundary, later
it makes one, and either way LOCKED is restored with SYNC_RESTORED. SYNC_OUT does not move. The state after a boundary is
the boundary's, settled; one in STOPPING reaches no window. -/
def Obligations.SyncInEdge : Prop :=
  ∀ s : State,
    let t := s.part.timer
    let edge := exec .syncInEdge s
    let restored (p : Part) : Part := ({ p with timer := { p.timer with sync := .locked } }).noteGlobal .syncRestored
    let retiringOnly := s.part.opState = .stopping ∧ (∀ w sv, s.part.service w = some sv → sv.retiring = true) ∧
      s.part.atRest = true ∧ s.part.noIdleRequest = true
    let made := t.atBoundary t.syncOut
    let quiet : Part := ({ s.part with timer := made }).noteGlobal .boundary
    (t.running = false ∨ t.source ≠ .external → edge = .next s) ∧
    (t.running = true ∧ t.source = .external →
      (t.sync = .locked ∧ t.count ≤ 1 → edge = .next s) ∧
      (t.sync = .locked ∧ 1 < t.count →
        edge = .next (s.onPart (s.part.boundaryAt made).settle) ∧
        (retiringOnly → edge = .next (s.onPart quiet)) ∧
        (s.part.opState = .run → ∃ p, edge = .next (s.onPart p) ∧ s.part.boundaryMade p made)) ∧
      (t.sync = .flywheel ∧ t.count ≤ t.guardTicks →
        let aligned : Timer :=
          { t with count := 0, period := t.pending.getD t.period, pending := none, sync := .locked }
        edge = .next (s.onPart (({ s.part with timer := aligned }).noteGlobal .syncRestored))) ∧
      (t.sync = .flywheel ∧ t.guardTicks < t.count →
        edge = .next (s.onPart (restored (s.part.boundaryAt made)).settle) ∧
        (retiringOnly → edge = .next (s.onPart (restored quiet))) ∧
        (s.part.opState = .run →
          ∃ p, edge = .next (s.onPart p) ∧ s.part.boundaryMade p { made with sync := .locked } ∧
            s.part.globalPending p .syncRestored)))

/-! ## A boundary at the windows (03_release_flip_and_pinning.md, 07_staged_configuration.md) -/

/-- What a boundary, its apply attempt made, leaves in each window's record: an OFF window that the apply enables is set up
anew, another OFF and a RETIRING one stay; a LIVE one is handled as if it were alone, under its descriptor as the apply left
it, and retires instead where the apply turned it off; an apply of pin limit 0 or of tags off ends its pin first. -/
def Obligations.BoundaryReachesEachWindow : Prop :=
  ∀ (p : Part) (w : Win),
    let q := p.applyAttempt.1
    let applied := p.applyAttempt.2.getLsbD w.val
    let d := q.live[w]
    let after := p.deliverBoundary.record w
    (p.service w = none →
      (applied = true ∧ d.enable = true → after = .setUp d) ∧
      (applied = false ∨ d.enable = false → after = p.record w)) ∧
    (∀ sv, p.service w = some sv →
      (sv.retiring = true → after = p.record w) ∧
      (sv.retiring = false →
        (applied = false → after = (q.handleBoundary w).record w) ∧
        (applied = true ∧ d.enable = false → after = (q.retire w).record w) ∧
        (applied = true ∧ d.enable = true →
          (0 < d.pinLimit ∧ d.tags = true → after = (q.handleBoundary w).record w) ∧
          (d.pinLimit = 0 ∨ d.tags = false →
            after = ((q.setService w { sv with pin := none }).handleBoundary w).record w))))

/-- At a boundary the windows that join the waiting list, by enable, release or retire, join at the tail, not promoted and
in ascending number; what stood there keeps its order. A window enabled at the boundary joins with CATCH_UP, and each port
loses the pending notices of the window that its role never receives, and no other. -/
def Obligations.EnableAtBoundaryJoinsAndClearsNotices : Prop :=
  ∀ p : Part,
    let q := p.deliverBoundary
    let mark (e : WaitEntry) : Win × Bool := (e.window, e.promoted)
    ∃ kept joined : List WaitEntry, q.copy.waiting = kept ++ joined ∧
      (kept.map mark).Sublist (p.copy.waiting.map mark) ∧ (∀ e ∈ joined, e.promoted = false) ∧
      (joined.map (fun e => e.window)).Pairwise (fun v w => v.val < w.val) ∧
      ∀ w : Win, p.service w = none ∧ p.applyAttempt.2.getLsbD w.val = true →
        let d := p.applyAttempt.1.live[w]
        d.enable = true →
          (p.copyStatus w = .none → (⟨w, .catchUp, false⟩ : WaitEntry) ∈ joined) ∧
          ∀ x : Port, (q.notices.get x).window[w] = roleKeeps (decide (d.producer = x)) (p.notices.get x).window[w]

/-- Under BOUNDARY policy step 1 is an overrun where a release is pending or the back is not caught up, nothing under skip
empty with an empty dirty set, else an implicit release that drops a ready image found there. A ready image found by an
overrun or a skip of a window that is not pinned flips as usual. The image of the implicit release becomes front at the
same boundary, where the window is not pinned or its pin ends there, with PIN_EXPIRED; else it is deferred. -/
def Obligations.BoundaryStepOne : Prop :=
  ∀ (p : Part) (w : Win) (sv : Service), p.service w = some sv → (p.liveOf w).policy = .boundary →
    let r := p.record w
    let limit := (p.liveOf w).pinLimit
    let behind := sv.releasePending = true ∨ sv.backStale ≠ 0#64 ∨ p.inCopyLines w ≠ 0#64
    let skips := (p.liveOf w).skipEmpty = true ∧ sv.dirty = 0#64
    let consumer := sv.geometry.producer.other
    let aged (sv' : Service) : Record :=
      { r with age := if r.age < 255 then r.age + 1 else 255, service := some sv' }
    let flipped (image : ReadyImage) (sv' : Service) : Record := { r with
      frontNumber := image.number, frontFill := image.fill, age := 0
      service := some { sv' with
        front := image.bank, ready := none, pin := none, initial := false, late := false, deferred := false } }
    let overrun := p.note sv.geometry.producer w .overrun
    let carrying : Service := { sv with carried := true }
    (behind ∧ sv.pin = none ∧ sv.ready = none → p.handleBoundary w = overrun.setRecord w (aged carrying)) ∧
    (∀ image, behind ∧ sv.pin = none ∧ sv.ready = some image →
      p.handleBoundary w = (overrun.setRecord w (flipped image carrying)).note consumer w .imageReady) ∧
    (¬ behind ∧ skips ∧ sv.pin = none ∧ sv.ready = none → p.handleBoundary w = p.setRecord w (aged sv)) ∧
    (∀ image, ¬ behind ∧ skips ∧ sv.pin = none ∧ sv.ready = some image →
      p.handleBoundary w = (p.setRecord w (flipped image sv)).note consumer w .imageReady) ∧
    (∀ new : Bank, ¬ behind ∧ ¬ skips ∧ sv.rolesDistinct = true ∧ (∀ image, sv.ready = some image → new = image.bank) ∧
        (sv.ready = none → new ≠ sv.front ∧ new ≠ sv.back) →
      let gained (k : Bank) : LineSet := if k = sv.back then sv.stale.get k else sv.stale.get k ||| sv.dirty
      let image : ReadyImage := ⟨sv.back, r.next, lineCount sv.dirty⟩
      let after : Service := { sv with
        back := new, stale := ⟨gained .b0, gained .b1, gained .b2⟩, dirty := 0#64, releasePending := false
        carried := false }
      let dropped := if sv.ready.isSome then (if r.dropped < 255 then r.dropped + 1 else 255) else r.dropped
      let noted := if sv.ready.isSome then p.note consumer w .dropped else p
      let released (q : Part) (r' : Record) : Part :=
        let q' := q.setRecord w { r' with next := r.next + 1#16, dropped := dropped }
        if gained new = 0#64 then q'.note sv.geometry.producer w .backReady else q'.join w .catchUp
      let shown (q : Part) : Part := (released q (flipped image after)).note consumer w .imageReady
      (sv.pin = none → p.handleBoundary w = shown noted) ∧
      (∀ k, sv.pin = some k ∧ limit ≤ k + 1 → p.handleBoundary w = shown (noted.note consumer w .pinExpired)) ∧
      (∀ k, sv.pin = some k ∧ k + 1 < limit →
        p.handleBoundary w =
          released noted (aged { after with ready := some image, pin := some (k + 1), deferred := true })))

/-- Steps 2 to 4 where step 1 releases nothing: under EXPLICIT policy, that skips it, and under BOUNDARY policy at a skip
and at an overrun, that notes OVERRUN and sets CARRIED. A pin ages by 1 and ends at the limit with PIN_EXPIRED; a ready
image then flips with IMAGE_READY, or is deferred while the window is still pinned; the age rises where the front did not
change. -/
def Obligations.BoundaryPinFlipAndAge : Prop :=
  ∀ (p q : Part) (w : Win) (sv sv' : Service), p.service w = some sv →
    let policy := (p.liveOf w).policy
    let behind := sv.releasePending = true ∨ sv.backStale ≠ 0#64 ∨ p.inCopyLines w ≠ 0#64
    let skips := (p.liveOf w).skipEmpty = true ∧ sv.dirty = 0#64
    ((policy = .explicit ∨ (policy = .boundary ∧ ¬ behind ∧ skips)) ∧ q = p ∧ sv' = sv) ∨
        (policy = .boundary ∧ behind ∧ q = p.note sv.geometry.producer w .overrun ∧ sv' = { sv with carried := true }) →
    let r := p.record w
    let consumer := sv.geometry.producer.other
    let aged (sv' : Service) : Record :=
      { r with age := if r.age < 255 then r.age + 1 else 255, service := some sv' }
    let flipped (image : ReadyImage) : Record := { r with
      frontNumber := image.number, frontFill := image.fill, age := 0
      service := some { sv' with
        front := image.bank, ready := none, pin := none, initial := false, late := false, deferred := false } }
    let limit := (p.liveOf w).pinLimit
    (sv.pin = none ∧ sv.ready = none → p.handleBoundary w = q.setRecord w (aged sv')) ∧
    (∀ image, sv.pin = none ∧ sv.ready = some image →
      p.handleBoundary w = (q.setRecord w (flipped image)).note consumer w .imageReady) ∧
    (∀ k, sv.pin = some k ∧ k + 1 < limit →
      p.handleBoundary w =
        q.setRecord w (aged { sv' with pin := some (k + 1), deferred := sv.deferred || sv.ready.isSome })) ∧
    (∀ k, sv.pin = some k ∧ limit ≤ k + 1 ∧ sv.ready = none →
      p.handleBoundary w = (q.setRecord w (aged { sv' with pin := none })).note consumer w .pinExpired) ∧
    (∀ k image, sv.pin = some k ∧ limit ≤ k + 1 ∧ sv.ready = some image →
      p.handleBoundary w =
        ((q.setRecord w (flipped image)).note consumer w .pinExpired).note consumer w .imageReady)

/-- The apply attempt of a boundary: none but in RUN with the hold flag and REJECTED clear and a mark set; deferred
whole by a marked window that is RETIRING; rejected, with CONFIG_REJECTED, where two occupied regions share a word; else
every marked staged descriptor becomes live together, the marks clear and CONFIG_APPLIED is noted. The regions are those of
the windows in service, by their working geometry, of the marked windows staged enabled, and of the lines being drained. -/
def Obligations.ApplyAttempt : Prop :=
  ∀ p : Part,
    let attempts := p.opState = .run ∧ p.staging.hold = false ∧ p.staging.rejected = false ∧ p.staging.changed ≠ 0#16
    let marked (w : Win) : Bool := p.staging.changed.getLsbD w.val
    let deferred := ∃ w sv, marked w = true ∧ p.service w = some sv ∧ sv.retiring = true
    let fits := spansDisjoint p.spansAtBoundary
    (¬ attempts → p.applyAttempt = (p, 0#16)) ∧
    (attempts ∧ deferred → p.applyAttempt = (p, 0#16)) ∧
    (attempts ∧ ¬ deferred ∧ ¬ fits →
      p.applyAttempt =
        (({ p with staging := { p.staging with rejected := true } }).noteGlobal .configRejected, 0#16)) ∧
    (attempts ∧ ¬ deferred ∧ fits →
      ∃ live : Vector Descriptor 16,
        p.applyAttempt =
          (({ p with live := live, staging := { p.staging with changed := 0#16 } }).noteGlobal .configApplied,
            p.staging.changed) ∧
        ∀ w : Win, live[w] = if marked w then p.staging.staged[w] else p.live[w])

/-- A retire: the pin ends, a ready image becomes front with LATE clear and IMAGE_READY to the consumer, the dirty lines
join the back's stale set. With bank 0 up to date the window is OFF at once, RETIRED noted to both ports, its lines in copy
drained and its touch entries gone; else it is RETIRING with the job RETIRE, the lines in copy go on, and its queued touch
entries go, the one in service staying. Its deferred touch requests go. Every other window's record is as before. -/
def Obligations.RetireOutcome : Prop :=
  ∀ (p : Part) (w : Win) (sv : Service), p.service w = some sv → sv.retiring = false →
    let r := p.record w
    let stale := sv.stale.set sv.back (sv.backStale ||| sv.dirty)
    let q := p.retire w
    let after (service : Option Service) : Record :=
      match sv.ready with
      | none => { r with service := service }
      | some image => { r with frontNumber := image.number, frontFill := image.fill, age := 0, service := service }
    let home : Service :=
      match sv.ready with
      | none => { sv with pin := none, stale := stale, dirty := 0#64, releasePending := false, retiring := true }
      | some image =>
        { sv with front := image.bank, ready := none, initial := false, late := false, deferred := false, pin := none
                  stale := stale, dirty := 0#64, releasePending := false, retiring := true }
    (∀ v, v ≠ w → q.record v = p.record v) ∧
    (sv.ready.isSome = true →
      ((q.notices.get sv.geometry.producer.other).window[w]).getLsbD Notice.imageReady.bit = true) ∧
    (∀ x line, p.copy.deferred.get x = some (w, line) → q.copy.deferred.get x = none) ∧
    (∀ x v line, p.copy.deferred.get x = some (v, line) ∧ v ≠ w → q.copy.deferred.get x = some (v, line)) ∧
    (stale.b0 = 0#64 →
      q.record w = after none ∧ (∀ x, ((q.notices.get x).window[w]).getLsbD Notice.retired.bit = true) ∧
      q.copy.queue = p.copy.queue.filter (fun e => decide (e.window ≠ w)) ∧
      (∀ c job cp, (p.channel c).work = .serving w job (some cp) → (q.channel c).work = .draining w cp) ∧
      (∀ c job, (p.channel c).work = .serving w job none → (q.channel c).work = .idle) ∧
      (∀ cp, p.copy.touch.work = .copying w cp → q.copy.touch.work = .draining w cp)) ∧
    (stale.b0 ≠ 0#64 →
      q.record w = after (some home) ∧ q.jobOf w = some .retire ∧
      q.copy.queue = p.copy.queue.filter (fun e => decide (e.window ≠ w) || e.inService) ∧
      (∀ c job cp, (p.channel c).work = .serving w job cp → (q.channel c).work = .serving w .retire cp) ∧
      q.copy.touch = p.copy.touch)

/-! ## The management link (11_management_link.md) -/

/-- Every command's frame, its bytes sent bit by bit, most significant bit first, is received as those bytes with no bit
over, and is judged to be that command. A frame judged to be a command holds exactly the bytes of that command, or is a
NOP with bytes 0x00 after it (log entry 28: the model's reading of the NOP frame). -/
def Obligations.LinkFramesRoundTrip : Prop :=
  (∀ (c : LinkCommand) (reply : List Byte),
    let bits := (frameBytes c).flatMap (fun b => (List.range 8).map (fun i => b.getLsbD (7 - i)))
    let f := bits.foldl Frame.sample (Frame.start reply)
    f.bytes = frameBytes c ∧ f.bits = [] ∧ judgeFrame f.bytes f.bits = .taken c) ∧
  (∀ (bytes : List Byte) (bits : List Bool) (c : LinkCommand), judgeFrame bytes bits = .taken c →
    bits = [] ∧ (bytes = frameBytes c ∨ c = .nop ∧ bytes ≠ [] ∧ ∀ b ∈ bytes, b = 0x00#8))

/-- On the wire: SS# falling begins a frame with nothing received and the reply buffer to shift out from its first bit; a
rising SCK edge takes a bit, the eighth makes a whole byte; a falling edge moves SDO to the next bit of the reply, zeros
after it; held in reset both edges are ignored, and a frame that begins then is none (log entry 12). Frames whose end
carries out no command: an empty frame changes nothing, a malformed one leaves FRAME_ERROR in the reply buffer, a NOP
leaves the previous reply; one that ends while the part is held in reset or within a soft reset, or was discarded, is not
taken, whatever it holds. -/
def Obligations.FramesOnTheWireAndUntakenFrames : Prop :=
  ∀ (s : State) (f : Frame) (sdi : Bool),
    let with' (frame : FrameState) : State := { s with link := { s.link with frame := frame } }
    (s.link.frame = .idle →
      exec .frameStart s =
        .next (with' (if s.held then .discarded else .shifting ⟨[], [], s.link.reply, 0⟩))) ∧
    (s.held = true → exec (.sckEdge (.rising sdi)) s = .next s ∧ exec (.sckEdge .falling) s = .next s) ∧
    (s.held = false ∧ s.link.frame = .shifting f →
      s.sdo = some ((f.out.getD (f.outPos / 8) 0x00#8).getLsbD (7 - f.outPos % 8)) ∧
      exec (.sckEdge .falling) s = .next (with' (.shifting { f with outPos := f.outPos + 1 })) ∧
      (f.bits.length < 7 →
        exec (.sckEdge (.rising sdi)) s = .next (with' (.shifting { f with bits := f.bits ++ [sdi] }))) ∧
      (f.bits.length = 7 →
        ∃ b : Byte,
          exec (.sckEdge (.rising sdi)) s =
            .next (with' (.shifting { f with bytes := f.bytes ++ [b], bits := [] })) ∧
          ∀ i, i < 8 → (f.bits ++ [sdi])[i]? = some (b.getLsbD (7 - i)))) ∧
    (s.takesFrames = true →
      (s.link.frame = .idle ∨ (s.link.frame = .shifting f ∧ f.bytes = []) →
        exec .emptyFrame s = .next (with' .idle)) ∧
      (s.link.frame = .idle ∨
          (s.link.frame = .shifting f ∧ f.bytes ≠ [] ∧ (f.bits ≠ [] ∨ parseFrame f.bytes = none)) →
        exec .frameError s = .next (s.replied s.part [0x06#8])) ∧
      (s.frameGives .nop = true → exec .nop s = .next (with' .idle))) ∧
    (s.takesFrames = false ∨ s.link.frame = .discarded → ∀ v, s.frameEnd v = with' .idle)

/-- GET_STATUS and GET_CHANNEL reply as R171 lays out, GET_WINDOW returns the image of the staged or the live descriptor
byte by byte as R173 lays it out, and none changes what it reads; a channel above 3, a window above 15 or another selection
gives BAD_ARG; and an image so read is taken by SET_WINDOW as the same descriptor. -/
def Obligations.StatusChannelAndWindowReplies : Prop :=
  (∀ (s : State) (channel window selection : Byte),
    (s.frameGives .getStatus = true →
      let state (c : Chan) : Nat :=
        match (s.part.channel c).work with | .idle => 0 | .serving _ _ _ => 1 | .draining _ _ => 2
      let mask (c : Chan) : Nat := (s.part.channel c).masked.toNat
      exec .getStatus s = .next (s.replied s.part
        ([0x01#8, match s.part.opState with | .standby => 0x00#8 | .run => 0x01#8 | .stopping => 0x02#8,
          BitVec.ofNat 8 ((decide (s.part.timer.sync = .flywheel)).toNat + 2 * s.part.timer.pending.isSome.toNat),
          BitVec.ofNat 8 (s.part.staging.hold.toNat + 2 * s.part.staging.rejected.toNat),
          s.part.staging.changed.extractLsb' 8 8, s.part.staging.changed.extractLsb' 0 8,
          BitVec.ofNat 8 (state 0 + 4 * state 1 + 16 * state 2 + 64 * state 3),
          BitVec.ofNat 8 (mask 0 + 2 * mask 1 + 4 * mask 2 + 8 * mask 3)]))) ∧
    (s.frameGives (.getChannel channel) = true →
      (3 < channel.toNat → exec (.getChannel channel) s = .next (s.replied s.part [0x02#8])) ∧
      (∀ c : Chan, c.val = channel.toNat →
        let ch := s.part.channel c
        let items : List Byte :=
          match ch.work with
          | .idle => [0x00#8, BitVec.ofNat 8 ch.masked.toNat, 0xFF#8, 0xFF#8, 0xFF#8]
          | .serving w job none =>
            [0x01#8, BitVec.ofNat 8 ch.masked.toNat, BitVec.ofNat 8 w.val, if job = .retire then 0x01#8 else 0x00#8,
              0xFF#8]
          | .serving w job (some cp) =>
            [0x01#8, BitVec.ofNat 8 ch.masked.toNat, BitVec.ofNat 8 w.val, if job = .retire then 0x01#8 else 0x00#8,
              BitVec.ofNat 8 cp.line]
          | .draining w cp =>
            [0x02#8, BitVec.ofNat 8 ch.masked.toNat, BitVec.ofNat 8 w.val, 0xFF#8, BitVec.ofNat 8 cp.line]
        exec (.getChannel channel) s = .next (s.replied s.part
          (0x01#8 :: items ++ [ch.holding.extractLsb' 8 8, ch.holding.extractLsb' 0 8])))) ∧
    (s.frameGives (.getWindow window selection) = true →
      (15 < window.toNat ∨ 1 < selection.toNat →
        exec (.getWindow window selection) s = .next (s.replied s.part [0x02#8])) ∧
      (∀ w : Win, w.val = window.toNat ∧ selection.toNat ≤ 1 →
        let d := if selection.toNat = 0 then s.part.staging.staged[w] else s.part.live[w]
        let address (a : Addr) : List Byte :=
          [BitVec.ofNat 8 (a.toNat / 65536), BitVec.ofNat 8 (a.toNat / 256), BitVec.ofNat 8 a.toNat]
        exec (.getWindow window selection) s = .next (s.replied s.part
          ([0x01#8, BitVec.ofNat 8 (d.enable.toNat + 2 * (decide (d.producer = .b)).toNat +
              4 * (decide (d.policy = .explicit)).toNat + 8 * d.skipEmpty.toNat + 16 * d.tags.toNat)] ++
            address d.logicalBase ++ [BitVec.ofNat 8 d.length] ++ address d.bank1Base ++ address d.bank2Base ++
            [BitVec.ofNat 8 d.pinLimit, d.writeMask.extractLsb' 8 8, d.writeMask.extractLsb' 0 8]))))) ∧
  (∀ d : Descriptor, d.length ≤ 64 → d.pinLimit ≤ 15 →
    parseImage (imageBytes d.image) = some d.image ∧ imageDescriptor d.image = d)

/-- SET_WINDOW: BAD_ARG for a window above 15 or a descriptor that fails a field check; REFUSED by the geometry lock;
else the staged descriptor is replaced whole, its mark set and REJECTED cleared. A refusal changes nothing. -/
def Obligations.SetWindow : Prop :=
  ∀ (s : State) (window : Byte) (image : DescriptorImage), s.frameGives (.setWindow window image) = true →
    let d := imageDescriptor image
    (15 < window.toNat ∨ ¬ FieldChecks image →
      exec (.setWindow window image) s = .next (s.replied s.part [0x02#8])) ∧
    (∀ w : Win, w.val = window.toNat ∧ FieldChecks image →
      let live := s.part.live[w]
      let locked := s.part.service w ≠ none ∧ live.enable = true ∧ d.enable = true ∧
        ¬ (d.producer = live.producer ∧ d.logicalBase = live.logicalBase ∧ d.length = live.length ∧
          d.bank1Base = live.bank1Base ∧ d.bank2Base = live.bank2Base)
      (locked → exec (.setWindow window image) s = .next (s.replied s.part [0x03#8])) ∧
      (¬ locked →
        exec (.setWindow window image) s = .next (s.replied
          { s.part with staging := { s.part.staging with
            staged := s.part.staging.staged.set w.val d w.isLt
            changed := s.part.staging.changed ||| BitVec.twoPow 16 w.val
            rejected := false } }
          [0x01#8])))

/-- GET_WINDOW_STATE replies with the 25 bytes of R174, for a window that is OFF and for one in service, and changes
nothing; a window above 15 gives BAD_ARG. -/
def Obligations.GetWindowState : Prop :=
  ∀ (s : State) (window : Byte), s.frameGives (.getWindowState window) = true →
    (15 < window.toNat → exec (.getWindowState window) s = .next (s.replied s.part [0x02#8])) ∧
    (∀ w : Win, w.val = window.toNat →
      let r := s.part.record w
      let word (x : BitVec 16) : List Byte := [x.extractLsb' 8 8, x.extractLsb' 0 8]
      let number (n : Nat) : Byte := BitVec.ofNat 8 n
      let bank (k : Bank) : Byte := match k with | .b0 => 0x00#8 | .b1 => 0x01#8 | .b2 => 0x02#8
      (r.service = none →
        exec (.getWindowState window) s = .next (s.replied s.part
          ([0x01#8, 0x00#8, 0xFF#8, 0xFF#8, 0xFF#8, 0xFF#8, 0xFF#8] ++ word r.frontNumber ++ [0x00#8, 0x00#8] ++
            word r.next ++ [number r.frontFill, 0x00#8, 0x00#8, 0x00#8, 0x00#8, 0x00#8, number r.age,
              number r.dropped, 0x00#8, 0x00#8, 0x00#8, 0xFF#8, 0x00#8]))) ∧
      (∀ sv, r.service = some sv ∧ sv.rolesDistinct = true ∧ (∀ k, sv.pin = some k → k ≤ 15) →
        let copy : List Byte :=
          match s.part.copyStatus w with
          | .none => [0x00#8, 0xFF#8, 0x00#8]
          | .waiting position job promoted =>
            [0x01#8, number position, number ((decide (job = .retire)).toNat + 2 * promoted.toNat)]
          | .served c job => [0x02#8, number c.val, number (decide (job = .retire)).toNat]
        ∀ spare : Byte,
          (sv.ready ≠ none → spare = 0xFF#8) →
          (∀ k, sv.ready = none ∧ k ≠ sv.front ∧ k ≠ sv.back → spare = bank k) →
          exec (.getWindowState window) s = .next (s.replied s.part
            ([0x01#8, if sv.retiring then 0x02#8 else 0x01#8, bank sv.front,
                match sv.ready with | some i => bank i.bank | none => 0xFF#8, bank sv.back, spare,
                match sv.ready with | some i => bank i.bank | none => bank sv.front] ++
              word r.frontNumber ++ word (match sv.ready with | some i => i.number | none => 0#16) ++ word r.next ++
              [number r.frontFill, number (match sv.ready with | some i => i.fill | none => 0),
                number (lineCount sv.stale.b0), number (lineCount sv.stale.b1), number (lineCount sv.stale.b2),
                number (lineCount sv.dirty), number r.age, number r.dropped,
                number (match sv.pin with | some k => 128 + k | none => 0),
                number (sv.initial.toNat + 2 * sv.late.toNat + 4 * sv.deferred.toNat + 8 * sv.releasePending.toNat +
                  16 * sv.carried.toNat)] ++ copy))))

/-- CLEAR_STAGE makes the staged descriptors the live ones, without marks and without REJECTED, and keeps the hold flag;
HOLD sets the flag; UNHOLD clears it and REJECTED. All reply OK in every operating state. -/
def Obligations.StageCommands : Prop :=
  ∀ s : State,
    let staging (x : Staging) : State := s.replied { s.part with staging := x } [0x01#8]
    (s.frameGives .clearStage = true →
      exec .clearStage s =
        .next (staging { s.part.staging with staged := s.part.live, changed := 0#16, rejected := false })) ∧
    (s.frameGives .hold = true → exec .hold s = .next (staging { s.part.staging with hold := true })) ∧
    (s.frameGives .unhold = true →
      exec .unhold s = .next (staging { s.part.staging with hold := false, rejected := false }))

/-- RUN: REFUSED in RUN, BUSY in STOPPING, CONFLICT in STANDBY where two regions of the windows staged enabled and the
draining lines share a word, none of them changing anything. Else every live descriptor takes its staged one, the marks
and REJECTED clear, the hold flag stays, the part enters RUN, the timer runs from count 0, every window staged enabled is
set up from its bank 0, the others staying as they were; each port loses the notices of those windows that its role never
receives; and with every channel masked they wait with CATCH_UP in ascending number. -/
def Obligations.RunCommand : Prop :=
  ∀ s : State, s.frameGives .run = true →
    let fits := spansDisjoint s.part.spansAtRun
    let d (w : Win) : Descriptor := s.part.staging.staged[w]
    (s.part.opState = .run → exec .run s = .next (s.replied s.part [0x03#8])) ∧
    (s.part.opState = .stopping → exec .run s = .next (s.replied s.part [0x04#8])) ∧
    (s.part.opState = .standby ∧ ¬ fits → exec .run s = .next (s.replied s.part [0x05#8])) ∧
    (s.part.opState = .standby ∧ fits ∧ (∀ w, s.part.service w = none) ∧ s.part.atRest = true ∧
        s.part.noIdleRequest = true ∧ (∀ w, 1 ≤ (d w).length ∧ (d w).length ≤ 64) →
      ∃ p : Part, exec .run s = .next (s.replied p [0x01#8]) ∧ p.opState = .run ∧
        p.live = s.part.staging.staged ∧
        p.staging = { s.part.staging with changed := 0#16, rejected := false } ∧
        p.timer = { s.part.timer with running := true, count := 0, sync := .locked, syncOut := false } ∧
        (∀ w, p.record w = if (d w).enable then .setUp (d w) else s.part.record w) ∧
        (∀ w x, (p.notices.get x).window[w] =
          if (d w).enable then roleKeeps (decide ((d w).producer = x)) (s.part.notices.get x).window[w]
          else (s.part.notices.get x).window[w]) ∧
        (s.part.copy.waiting = [] ∧ (∀ c, (s.part.channel c).masked = true ∧
            ∀ w job cp, (s.part.channel c).work ≠ .serving w job cp) →
          p.copy.waiting =
            (allWindows.filter (fun w => (d w).enable)).map (fun w => ⟨w, .catchUp, false⟩)))

/-- STANDBY replies OK in every state: without effect in STANDBY and in STOPPING; in RUN no window is LIVE after it, and
the part stands in STOPPING with a window still RETIRING, or in STANDBY with none in service; with none in service
before it, the part is in STANDBY at once, the timer stopped, a pending period loaded, STANDBY_REACHED noted. A write whose
touch copy is under way as its window becomes RETIRING goes on in its touch wait: it is not classified anew before the
copy ends. -/
def Obligations.StandbyCommand : Prop :=
  ∀ s : State, s.frameGives .standby = true →
    (s.part.opState ≠ .run → exec .standby s = .next (s.replied s.part [0x01#8])) ∧
    (s.part.opState = .run →
      ∃ p : Part, exec .standby s = .next (s.replied p [0x01#8]) ∧ p.live = s.part.live ∧
        p.staging = s.part.staging ∧ (∀ w sv, p.service w = some sv → sv.retiring = true) ∧
        ((p.opState = .stopping ∧ ∃ w, p.service w ≠ none) ∨ (p.opState = .standby ∧ ∀ w, p.service w = none)) ∧
        (∀ q a w sv line n e, s.part.accessOf q = some a ∧ a.phase = .stalled (.touchWait w line) n ∧
            s.part.service w = some sv ∧ sv.retiring = false ∧
            (sv.stale.set sv.back (sv.backStale ||| sv.dirty)).b0 ≠ 0#64 ∧ e ∈ s.part.copy.queue ∧
            e.inService = true ∧ e.writeEnded = false ∧ e.port = q ∧ e.window = w ∧ e.line = line →
          p.accessOf q = some a ∧ (p.service w).isSome = true ∧ e ∈ p.copy.queue)) ∧
    (s.part.opState = .run ∧ (∀ w, s.part.service w = none) ∧ s.part.atRest = true ∧ s.part.noIdleRequest = true →
      let t := s.part.timer
      let stopped : Timer :=
        { t with running := false, syncOut := false, period := t.pending.getD t.period, pending := none }
      exec .standby s = .next (s.replied
        (({ s.part with opState := .standby, timer := stopped }).noteGlobal .standbyReached) [0x01#8]))

/-- SET_TIMING: the ranges and the source code before the state; in STANDBY all three are written, in RUN REFUSED, in
STOPPING BUSY. SET_PERIOD: 2 to 65535, at once in STANDBY, else as the pending period. LATCH_TIMER takes the count and the
boundary count unless the latch holds some already; READ_TIMER returns the latched values, else the live ones, with the
settings live, and leaves the latch unlatched. Nothing else changes. -/
def Obligations.TimerCommands : Prop :=
  ∀ (s : State) (source : Byte) (prescaler : Word) (guardTicks : Byte) (period : Word),
    let t := s.part.timer
    let timer (x : Timer) : Part := { s.part with timer := x }
    let ranges := source.toNat ≤ 2 ∧ 1 ≤ prescaler.toNat ∧ prescaler.toNat ≤ 4096 ∧ 1 ≤ guardTicks.toNat
    let set := exec (.setTiming source prescaler guardTicks) s
    (s.frameGives (.setTiming source prescaler guardTicks) = true →
      (¬ ranges → set = .next (s.replied s.part [0x02#8])) ∧
      (ranges ∧ s.part.opState = .run → set = .next (s.replied s.part [0x03#8])) ∧
      (ranges ∧ s.part.opState = .stopping → set = .next (s.replied s.part [0x04#8])) ∧
      (ranges ∧ s.part.opState = .standby →
        set = .next (s.replied (timer { t with
          source := if source.toNat = 0 then .internal else if source.toNat = 1 then .external else .command
          prescaler := prescaler.toNat, guardTicks := guardTicks.toNat }) [0x01#8]))) ∧
    (s.frameGives (.setPeriod period) = true →
      (period.toNat < 2 → exec (.setPeriod period) s = .next (s.replied s.part [0x02#8])) ∧
      (2 ≤ period.toNat ∧ s.part.opState = .standby →
        exec (.setPeriod period) s = .next (s.replied (timer { t with period := period.toNat }) [0x01#8])) ∧
      (2 ≤ period.toNat ∧ s.part.opState ≠ .standby →
        exec (.setPeriod period) s = .next (s.replied (timer { t with pending := some period.toNat }) [0x01#8]))) ∧
    (s.frameGives .latchTimer = true →
      (t.latched = true → exec .latchTimer s = .next (s.replied s.part [0x01#8])) ∧
      (t.latched = false →
        exec .latchTimer s = .next (s.replied
          (timer { t with latched := true, latchCount := t.count, latchBoundaries := t.boundaries }) [0x01#8]))) ∧
    (s.frameGives .readTimer = true →
      let count := if t.latched then t.latchCount else t.count
      let boundaries := if t.latched then t.latchBoundaries else t.boundaries
      let pair (n : Nat) : List Byte := [BitVec.ofNat 8 (n / 256), BitVec.ofNat 8 n]
      exec .readTimer s = .next (s.replied (timer { t with latched := false })
        ([0x01#8, BitVec.ofNat 8 (t.latched.toNat + 2 * (decide (t.sync = .flywheel)).toNat),
            match t.source with | .internal => 0x00#8 | .external => 0x01#8 | .command => 0x02#8,
            BitVec.ofNat 8 (count / 65536), BitVec.ofNat 8 (count / 256), BitVec.ofNat 8 count,
            boundaries.extractLsb' 24 8, boundaries.extractLsb' 16 8, boundaries.extractLsb' 8 8,
            boundaries.extractLsb' 0 8] ++ pair t.period ++ pair (t.pending.getD 0))))

/-- BOUNDARY: in RUN it makes a boundary in any source, SYNC_OUT rising but in EXTERNAL, and replies OK: the part after it
is the boundary's (Part.boundaryAt: the apply, then each window), settled; in STANDBY REFUSED and in STOPPING BUSY, with
nothing changed. -/
def Obligations.BoundaryCommand : Prop :=
  ∀ s : State, s.frameGives .boundary = true →
    (s.part.opState = .standby → exec .boundary s = .next (s.replied s.part [0x03#8])) ∧
    (s.part.opState = .stopping → exec .boundary s = .next (s.replied s.part [0x04#8])) ∧
    (s.part.opState = .run →
      let t := s.part.timer
      let made := t.atBoundary (if t.source = .external then t.syncOut else true)
      exec .boundary s = .next (s.replied (s.part.boundaryAt made).settle [0x01#8]) ∧
      ∃ p : Part, exec .boundary s = .next (s.replied p [0x01#8]) ∧ s.part.boundaryMade p made)

/-- SET_CHANNELS gives every channel its mask in one event; bits 4 to 7 give BAD_ARG. Where no channel gives its window
back and no window waits it changes nothing else. SET_LIMITS writes all three limits where the run limit is 1 to 15 and
the access time 2 to 15, else none. -/
def Obligations.ChannelMasksAndLimits : Prop :=
  ∀ (s : State) (masks runLimit stallLimit accessTime : Byte),
    (s.frameGives (.setChannels masks) = true →
      (15 < masks.toNat → exec (.setChannels masks) s = .next (s.replied s.part [0x02#8])) ∧
      (masks.toNat ≤ 15 →
        ∃ p : Part, exec (.setChannels masks) s = .next (s.replied p [0x01#8]) ∧ p.live = s.part.live ∧
          p.staging = s.part.staging ∧ ∀ c : Chan, (p.channel c).masked = masks.getLsbD c.val) ∧
      (masks.toNat ≤ 15 ∧ s.part.atRest = true ∧ s.part.noIdleRequest = true ∧ s.part.copy.waiting = [] ∧
          (∀ c w job, (s.part.channel c).work = .serving w job none → masks.getLsbD c.val = false) →
        ∃ channels : Vector Channel 4,
          exec (.setChannels masks) s = .next (s.replied
            { s.part with copy := { s.part.copy with channels := channels } } [0x01#8]) ∧
          ∀ c : Chan, channels[c] =
            { work := (s.part.channel c).work, masked := masks.getLsbD c.val
              holding := (s.part.channel c).holding })) ∧
    (s.frameGives (.setLimits runLimit stallLimit accessTime) = true →
      let ranges := 1 ≤ runLimit.toNat ∧ runLimit.toNat ≤ 15 ∧ 2 ≤ accessTime.toNat ∧ accessTime.toNat ≤ 15
      (¬ ranges → exec (.setLimits runLimit stallLimit accessTime) s = .next (s.replied s.part [0x02#8])) ∧
      (ranges →
        exec (.setLimits runLimit stallLimit accessTime) s = .next (s.replied
          { s.part with
            stallLimit := stallLimit.toNat
            arbiter := { s.part.arbiter with
              runLimit := runLimit.toNat, accessTime := accessTime.toNat } } [0x01#8])))

/-- A mask and the jobs: with every channel masked, those that serve without a line give their windows back at the head of
the list, promoted, the lower-numbered channel's first; a channel masked with a line in copy finishes it, becomes IDLE at
its line end and gives its window back, the job not complete, with its kind; and the one IDLE channel that a command
unmasks takes the head of the list. -/
def Obligations.MasksGiveBackAndTakeJobs : Prop :=
  ∀ s : State,
    (s.frameGives (.setChannels 0x0F#8) = true ∧ s.part.atRest = true ∧ s.part.noIdleRequest = true →
      let given (c : Chan) : Option WaitEntry :=
        match (s.part.channel c).work with | .serving w job none => some ⟨w, job, true⟩ | _ => none
      ∃ channels : Vector Channel 4,
        exec (.setChannels 0x0F#8) s = .next (s.replied
          { s.part with copy := { s.part.copy with
            channels := channels, waiting := allChannels.filterMap given ++ s.part.copy.waiting } } [0x01#8]) ∧
        ∀ c : Chan, channels[c] =
          { work := if (given c).isSome then .idle else (s.part.channel c).work, masked := true
            holding := (s.part.channel c).holding }) ∧
    (∀ (c : Chan) (w : Win) (job : Job) (sv : Service) (cp : LineCopy) (k : Bank) (m : MemAccess),
      s.part.arbiter.access = some m ∧ m.requestor = .channel c ∧ m.kind = .single ∧ m.write = true ∧ cp.word = 15 ∧
        s.part.softReset = .none ∧ s.part.atRest = true ∧ s.part.onlyChannelActive c ∧ s.mem.wf = true ∧
        (s.part.channel c).work = .serving w job (some cp) ∧ (s.part.channel c).masked = true ∧
        s.part.freeChannel? = none ∧ s.part.service w = some sv ∧ s.part.copy.queue = [] ∧
        cp.target = sv.geometry.base k ∧
        sv.geometry.logicalBase ≠ sv.geometry.bank1Base ∧ sv.geometry.logicalBase ≠ sv.geometry.bank2Base ∧
        sv.geometry.bank1Base ≠ sv.geometry.bank2Base ∧
        (∀ d, d ≠ c → ∀ job' cp', (s.part.channel d).work ≠ .serving w job' cp') ∧
        (∀ q a n, s.part.accessOf q = some a → a.phase ≠ .stalled (.touchWait w cp.line) n) →
      let stale := sv.stale.set k (sv.stale.get k &&& ~~~ BitVec.twoPow 64 cp.line)
      stale.get (match job with | .catchUp => sv.back | .retire => .b0) ≠ 0#64 →
      ∃ mem' : Memory, s.mem.afterWrite mem' m (decide (m.time < s.sramTime)) ∧
        let p := ((s.part.setService w { sv with stale := stale }).setChannelWork c .idle).setWaiting
          (⟨w, job, true⟩ :: s.part.copy.waiting)
        exec .memoryAccessCompletion s =
          .next { (s.onPart { p with arbiter := { s.part.arbiter with access := none } }) with
            mem := mem', freeIndex := s.freeIndex + 1 }) ∧
    (∀ (masks : Byte) (c : Chan) (e : WaitEntry) (rest : List WaitEntry) (sv : Service) (line : Nat),
      s.frameGives (.setChannels masks) = true ∧ masks.toNat ≤ 15 ∧ s.part.atRest = true ∧
        s.part.noIdleRequest = true ∧ s.part.waitingOk = true ∧ s.part.copy.waiting = e :: rest ∧
        (s.part.channel c).work = .idle ∧ masks.getLsbD c.val = false ∧
        (∀ d, d ≠ c → (s.part.channel d).work = .idle → masks.getLsbD d.val = true) ∧
        (∀ d w job, (s.part.channel d).work = .serving w job none → masks.getLsbD d.val = false) ∧
        s.part.service e.window = some sv ∧
        lowestLine? (sv.stale.get (match e.job with | .catchUp => sv.back | .retire => .b0) &&&
          ~~~ s.part.inCopyLines e.window) = some line →
      let channels : Vector Channel 4 :=
        Vector.ofFn (fun d : Chan => { s.part.channel d with masked := masks.getLsbD d.val })
      let p : Part := { s.part with copy := { s.part.copy with channels := channels, waiting := rest } }
      exec (.setChannels masks) s = .next (s.replied (p.jobTaken c e.window e.job sv line) [0x01#8]))

/-! ## Notices (09_notices_and_interrupt_lines.md) -/

/-- SET_NOTICE_MASKS replaces the port's kind mask, window mask and routing whole; READ_GLOBAL returns the port's global
flags and clears them all. The other port, the window notices and the poll order stay; a port code above 1, or a routing
byte with bit 6 or 7, gives BAD_ARG. A port's interrupt line is asserted exactly while a window notice of an unmasked kind
is pending for an unmasked window, or a global notice that is routed to the port is pending: under the masks as they
stand. -/
def Obligations.NoticeMasksGlobalsAndInterruptLine : Prop :=
  (∀ (s : State) (port kinds : Byte) (windows : Word) (routing : Byte),
    let masks := exec (.setNoticeMasks port kinds windows routing) s
    let notices (q : Port) (n : NoticeUnit) : Part := { s.part with notices := s.part.notices.set q n }
    (s.frameGives (.setNoticeMasks port kinds windows routing) = true →
      (1 < port.toNat ∨ 63 < routing.toNat → masks = .next (s.replied s.part [0x02#8])) ∧
      (∀ q : Port, routing.toNat ≤ 63 ∧ port = (match q with | .a => 0x00#8 | .b => 0x01#8) →
        masks = .next (s.replied
          (notices q { s.part.notices.get q with
            kindMask := kinds, windowMask := windows, routing := routing.extractLsb' 0 6 }) [0x01#8]))) ∧
    (s.frameGives (.readGlobal port) = true →
      (1 < port.toNat → exec (.readGlobal port) s = .next (s.replied s.part [0x02#8])) ∧
      (∀ q : Port, port = (match q with | .a => 0x00#8 | .b => 0x01#8) →
        exec (.readGlobal port) s = .next (s.replied
          (notices q { s.part.notices.get q with global := 0#6 })
          [0x01#8, BitVec.ofNat 8 (s.part.notices.get q).global.toNat])))) ∧
  (∀ (p : Part) (q : Port),
    let n := p.notices.get q
    p.interrupt q = true ↔
      (∃ (w : Win) (k : Notice), NoticeSet.has n.window[w] k = true ∧ n.kindMask.getLsbD k.bit = false ∧
        n.windowMask.getLsbD w.val = false) ∨
      (∃ k : GlobalNotice, GlobalSet.has n.global k = true ∧ n.routing.getLsbD k.bit = true))

/-- POLL finds the first window of the port's poll order that is unmasked and has a pending notice of an unmasked kind:
its flags, masked kinds included, are returned and cleared, and it moves to the end of the order. With none it says
none and changes nothing; a port code above 1 gives BAD_ARG. -/
def Obligations.PollCommand : Prop :=
  ∀ (s : State) (port : Byte), s.frameGives (.poll port) = true →
    (1 < port.toNat → exec (.poll port) s = .next (s.replied s.part [0x02#8])) ∧
    (∀ q : Port, port = (match q with | .a => 0x00#8 | .b => 0x01#8) →
      let n := s.part.notices.get q
      let holds (w : Win) : Prop := n.windowMask.getLsbD w.val = false ∧ ∃ k, n.window[w].getLsbD k = true ∧
        n.kindMask.getLsbD k = false
      ((∀ w ∈ n.pollOrder, ¬ holds w) → exec (.poll port) s = .next (s.replied s.part [0x01#8, 0xFF#8, 0x00#8])) ∧
      (∀ (before after : List Win) (w : Win), n.pollOrder = before ++ w :: after ∧ n.orderOk = true ∧
          (∀ v ∈ before, ¬ holds v) ∧ holds w →
        let polled : NoticeUnit :=
          { n with window := n.window.set w.val 0#8 w.isLt, pollOrder := before ++ after ++ [w] }
        exec (.poll port) s = .next (s.replied { s.part with notices := s.part.notices.set q polled }
          [0x01#8, BitVec.ofNat 8 w.val, n.window[w]])))

/-! ## Arbitration (08_memory_port_and_arbitration.md) -/

/-- A free memory port is offered by the order of choice: the touch copier; a channel by rotation once the run of port
grants is at the limit; the one port that requests, or of both the one not granted last, where its class still needs
memory; a channel by rotation; nobody where nothing requests. Where the selected port's class no longer needs memory its
request is withdrawn, with no grant to it, and the choice is among the remaining requests: the other port, then a channel by
rotation, whatever the withdrawn access asks for as it goes on; a withdrawal that leaves no request leaves the port free. -/
def Obligations.OrderOfChoice : Prop :=
  ∀ p : Part, p.arbiter.access = none → p.softReset ≠ .draining →
    let channelTurn (c : Chan) : Prop := p.channelRequests c = true ∧
      ∀ d : Chan, p.channelRequests d = true →
        (c - p.arbiter.nextChannel).val ≤ (d - p.arbiter.nextChannel).val
    let selected (q : Port) : Prop := p.touchRequests = false ∧
      ((∀ c, p.channelRequests c = false) ∨ p.arbiter.portRun < p.arbiter.runLimit) ∧ p.portRequests q = true ∧
      (p.portRequests q.other = true → p.arbiter.lastPort = q.other)
    (p.touchRequests = true → p.offer = p.grantTouch) ∧
    (∀ c, p.touchRequests = false ∧ channelTurn c ∧
        (p.arbiter.runLimit ≤ p.arbiter.portRun ∨ (p.portRequests .a = false ∧ p.portRequests .b = false)) →
      p.offer = p.grantChannel c) ∧
    (∀ q a m, selected q ∧ p.accessOf q = some a ∧ p.classify q a.addr a.write = .memory m →
      p.offer = p.grantPort q a m) ∧
    (∀ q a, selected q ∧ p.accessOf q = some a ∧ (∀ m, p.classify q a.addr a.write ≠ .memory m) →
      (∀ b m, p.portRequests q.other = true ∧ p.accessOf q.other = some b ∧
          p.classify q.other b.addr b.write = .memory m →
        p.offer.arbiter = (p.grantPort q.other b m).arbiter ∧
          p.offer.accessOf q.other = some { b with phase := .granted m }) ∧
      (∀ c, p.portRequests q.other = false ∧ channelTurn c → p.offer.arbiter = (p.grantChannel c).arbiter) ∧
      (∀ st, p.classify q a.addr a.write = .stall st ∧ p.atRest = true ∧ p.portRequests q.other = false →
        p.offer.accessOf q = some { a with phase := .stalled st 0 } ∧
        ((∀ c, p.channelRequests c = false) ∧ (∀ w line, st ≠ .touchWait w line) →
          p.offer = p.setAccess q { a with phase := .stalled st 0 }))) ∧
    (p.touchRequests = false ∧ (∀ c, p.channelRequests c = false) ∧ p.portRequests .a = false ∧
        p.portRequests .b = false →
      p.offer = p)

/-! ## Resets (10_operating_states_and_reset.md) -/

/-- A soft reset. At the frame end, with the memory port free, steps 2 to 4 come at once; with it busy only the reply
buffer is emptied. They come then at the completion of the access under way, a port's own, a copier's word, a read, a write
or a pair's second half (its first half only begins the second): that access completes, every block takes its reset
values, and each port's access still in progress is a pass-through under the arbiter's reset state, Port B's granted first
of two. OK follows at once where none is left, else with the completion of the last. The later rows are those completions
(log entry 7). -/
def Obligations.SoftResetInSteps : Prop :=
  ∀ (s : State) (q : Port) (m : MemAccess),
    let ended (write : Bool) (d : Word) : PortIf :=
      ⟨none, if (s.part.ports.get q).busCycle ∧ write = false then some d else none, (s.part.ports.get q).busCycle⟩
    let slow := decide (m.time < s.sramTime)
    let taken (d : Word) (mem' : Memory) : Prop :=
      (m.write = false → mem' = s.mem ∧ (s.sramTime ≤ m.time →
        (m.lanes.lower = true → d.extractLsb' 0 8 = s.mem.readByte (2 * m.addr.toNat)) ∧
        (m.lanes.upper = true → d.extractLsb' 8 8 = s.mem.readByte (2 * m.addr.toNat + 1)))) ∧
      (m.write = true → s.mem.afterWrite mem' m slow)
    (s.frameGives .softReset = true →
      (s.part.arbiter.access = none →
        exec .softReset s = .next ((s.replied s.part []).softResetDoneAt s.part)) ∧
      (s.part.arbiter.access ≠ none →
        exec .softReset s = .next (s.replied { s.part with softReset := .draining } []))) ∧
    (s.part.softReset = .draining ∧ s.part.arbiter.access = some m ∧ (m.kind = .single ∨ m.kind = .pairWrite) ∧
        s.mem.wf = true →
      ∃ (d : Word) (mem' : Memory), taken d mem' ∧
        exec .memoryAccessCompletion s = exec .softResetApply s ∧
        (m.requestor = .port q → exec .softResetApply s =
          .next { s.softResetDoneAt (s.part.withPort q (ended m.write d)) with
            mem := mem', freeIndex := s.freeIndex + 1 }) ∧
        (m.requestor = .touch ∨ (∃ c, m.requestor = .channel c) → exec .softResetApply s =
          .next { s.softResetDoneAt s.part with mem := mem', freeIndex := s.freeIndex + 1 })) ∧
    (∀ awaited, s.part.softReset = .finishing awaited ∧ s.part.arbiter.access = some m ∧ m.requestor = .port q ∧
        (m.kind = .single ∨ m.kind = .pairWrite) ∧ s.mem.wf = true →
      (awaited.get q.other = false ∧ s.part.atRest = true ∧ s.part.onlyPortActive q →
        ∃ (d : Word) (mem' : Memory), taken d mem' ∧
          exec .memoryAccessCompletion s = exec .softResetDone s ∧
          exec .softResetDone s = .next
            { s with
              part := { s.part.withPort q (ended m.write d) with
                arbiter := { s.part.arbiter with access := none }, softReset := .none }
              link := { s.link with reply := [0x01#8] }, mem := mem', freeIndex := s.freeIndex + 1 }) ∧
      (awaited.get q.other = true →
        exec .softResetDone s = .next s ∧
        ∃ t, exec .memoryAccessCompletion s = .next t ∧ t.part.softReset = .finishing (awaited.set q false) ∧
          t.link.reply = s.link.reply)) ∧
    (s.part.softReset ≠ .draining ∨ s.part.arbiter.access = none ∨
        (s.part.arbiter.access = some m ∧ ∃ mask, m.kind = .pairRead mask) →
      exec .softResetApply s = .next s) ∧
    ((∀ awaited, s.part.softReset ≠ .finishing awaited) ∨ s.part.arbiter.access = none →
      exec .softResetDone s = .next s)

/-- RESET# falling takes every block to its reset values at once, whatever it was doing, with WAIT, INT_A, INT_B and
SYNC_OUT low; memory keeps every byte but, where a write was under way, that of its enabled lanes, which are old or new;
a frame under way is discarded. RESET# rising, the end of the power-on hold and the application of power move the pins;
power empties the model's memory (log entry 2: the model's choice). -/
def Obligations.ResetPinAndPower : Prop :=
  ∀ s : State, s.mem.wf = true →
    let cleared : Part :=
      { Part.reset with ports := ⟨⟨none, none, s.part.ports.a.busCycle⟩, ⟨none, none, s.part.ports.b.busCycle⟩⟩ }
    let link : Link := ⟨if s.link.frame = .idle then .idle else .discarded, []⟩
    (∃ mem' : Memory,
      exec .resetPin s =
        .next { s with part := cleared, link := link, resetLow := true, mem := mem', freeIndex := s.freeIndex + 1 } ∧
      ((∀ m, s.part.arbiter.access = some m → m.write = false) → mem' = s.mem) ∧
      (∀ m, s.part.arbiter.access = some m ∧ m.write = true → s.mem.afterWrite mem' m true)) ∧
    (cleared.wait .a = false ∧ cleared.wait .b = false ∧ cleared.interrupt .a = false ∧ cleared.interrupt .b = false ∧
      cleared.timer.syncOut = false ∧ cleared.memoryPins = none) ∧
    exec .resetRelease s = .next { s with resetLow := false } ∧
    exec .powerUp s = .next { s with part := cleared, link := link, powerHold := true, mem := [] } ∧
    exec .powerOnHoldEnd s = .next { s with powerHold := false }

/-! ## Invariants -/

/-- Every step keeps the canonical form of the memory: keys strictly rising and no entry equal to what an unlisted byte
reads as. It is the model's own representation of the SRAM (log entries 1 and 2), no rule of the spec. -/
def Obligations.MemoryStaysCanonical : Prop := KeptByStep (fun s => s.mem.wf = true)

/-- Every step keeps the images of every window: no bank has two roles, and the latest bank is stale on no line. -/
def Obligations.ImagesStaySound : Prop := KeptByStep (fun s => s.part.imagesOk = true)

/-- Every step keeps the windows and the timer in agreement with the operating state: in STANDBY every window is OFF and
the timer stopped, in STOPPING none is LIVE; the timer runs in RUN and STOPPING. -/
def Obligations.OperatingStateGovernsWindowsAndTimer : Prop :=
  KeptByStep (fun s => s.part.windowsMatchState = true ∧ s.part.timerMatchesState = true)

/-- Every step keeps each port's poll order a list of the 16 windows, each once. -/
def Obligations.PollOrdersStayComplete : Prop := KeptByStep (fun s => s.part.ordersOk = true)

/-- Every step keeps the Copy Engine's laws: a window is at most once on the waiting list, never while a channel serves it,
a channel serves one window, promoted entries stand ahead; the touch queue holds at most one entry for a port, and the one
in service is the touch copier's; no line of a window is in copy by two copiers. -/
def Obligations.CopyEngineLawsStay : Prop :=
  KeptByStep (fun s => s.part.waitingOk = true ∧ s.part.queueOk = true ∧ s.part.marksDisjoint = true)

/-- The invariants hold right after reset; the memory's is that of the model's own representation (log entries 1 and 2). -/
def Obligations.InvariantsHoldAtReset : Prop :=
  State.reset.mem.wf = true ∧ State.reset.part.imagesOk = true ∧ State.reset.part.windowsMatchState = true ∧
    State.reset.part.timerMatchesState = true ∧ State.reset.part.ordersOk = true ∧
    State.reset.part.waitingOk = true ∧ State.reset.part.queueOk = true ∧ State.reset.part.marksDisjoint = true


end
end

