-- ==== Sys2Proof/Laws/State.lean ====
section
/-!
SUPPORT. The update lemmas of State and its records: what each named update leaves as it was, and what it puts there.
-/

namespace Sys2Proof

/-! ## Pairs and triples -/

@[simp] theorem PerPort.get_set_same {α : Type} (x : PerPort α) (p : Port) (v : α) : (x.set p v).get p = v := by
  cases p <;> rfl

@[simp] theorem PerPort.get_set_other {α : Type} (x : PerPort α) (p : Port) (v : α) :
    (x.set p v).get p.other = x.get p.other := by
  cases p <;> rfl

theorem PerPort.get_set_ne {α : Type} (x : PerPort α) {p q : Port} (h : q ≠ p) (v : α) :
    (x.set p v).get q = x.get q := by
  cases p <;> cases q <;> first | rfl | exact absurd rfl h

@[simp] theorem PerPort.set_get {α : Type} (x : PerPort α) (p : Port) : x.set p (x.get p) = x := by
  cases p <;> rfl

@[simp] theorem PerBank.get_set_same {α : Type} (x : PerBank α) (k : Bank) (v : α) : (x.set k v).get k = v := by
  cases k <;> rfl

theorem PerBank.get_set_ne {α : Type} (x : PerBank α) {k l : Bank} (h : l ≠ k) (v : α) :
    (x.set k v).get l = x.get l := by
  cases k <;> cases l <;> first | rfl | exact absurd rfl h

end Sys2Proof

namespace Sys2Proof.Machine

/-! ## The part's updates, field by field -/

@[simp] theorem Part.setRecord_ports (p : Part) (w : Win) (r : Record) : (p.setRecord w r).ports = p.ports := rfl
@[simp] theorem Part.setRecord_stallLimit (p : Part) (w : Win) (r : Record) : (p.setRecord w r).stallLimit = p.stallLimit := rfl
@[simp] theorem Part.setRecord_live (p : Part) (w : Win) (r : Record) : (p.setRecord w r).live = p.live := rfl
@[simp] theorem Part.setRecord_staging (p : Part) (w : Win) (r : Record) : (p.setRecord w r).staging = p.staging := rfl
@[simp] theorem Part.setRecord_copy (p : Part) (w : Win) (r : Record) : (p.setRecord w r).copy = p.copy := rfl
@[simp] theorem Part.setRecord_arbiter (p : Part) (w : Win) (r : Record) : (p.setRecord w r).arbiter = p.arbiter := rfl
@[simp] theorem Part.setRecord_timer (p : Part) (w : Win) (r : Record) : (p.setRecord w r).timer = p.timer := rfl
@[simp] theorem Part.setRecord_notices (p : Part) (w : Win) (r : Record) : (p.setRecord w r).notices = p.notices := rfl
@[simp] theorem Part.setRecord_opState (p : Part) (w : Win) (r : Record) : (p.setRecord w r).opState = p.opState := rfl
@[simp] theorem Part.setRecord_softReset (p : Part) (w : Win) (r : Record) : (p.setRecord w r).softReset = p.softReset := rfl

@[simp] theorem Part.setService_ports (p : Part) (w : Win) (sv : Service) : (p.setService w sv).ports = p.ports := rfl
@[simp] theorem Part.setService_stallLimit (p : Part) (w : Win) (sv : Service) : (p.setService w sv).stallLimit = p.stallLimit := rfl
@[simp] theorem Part.setService_live (p : Part) (w : Win) (sv : Service) : (p.setService w sv).live = p.live := rfl
@[simp] theorem Part.setService_staging (p : Part) (w : Win) (sv : Service) : (p.setService w sv).staging = p.staging := rfl
@[simp] theorem Part.setService_copy (p : Part) (w : Win) (sv : Service) : (p.setService w sv).copy = p.copy := rfl
@[simp] theorem Part.setService_arbiter (p : Part) (w : Win) (sv : Service) : (p.setService w sv).arbiter = p.arbiter := rfl
@[simp] theorem Part.setService_timer (p : Part) (w : Win) (sv : Service) : (p.setService w sv).timer = p.timer := rfl
@[simp] theorem Part.setService_notices (p : Part) (w : Win) (sv : Service) : (p.setService w sv).notices = p.notices := rfl
@[simp] theorem Part.setService_opState (p : Part) (w : Win) (sv : Service) : (p.setService w sv).opState = p.opState := rfl
@[simp] theorem Part.setService_softReset (p : Part) (w : Win) (sv : Service) : (p.setService w sv).softReset = p.softReset := rfl

@[simp] theorem Part.dropService_ports (p : Part) (w : Win) : (p.dropService w).ports = p.ports := rfl
@[simp] theorem Part.dropService_stallLimit (p : Part) (w : Win) : (p.dropService w).stallLimit = p.stallLimit := rfl
@[simp] theorem Part.dropService_live (p : Part) (w : Win) : (p.dropService w).live = p.live := rfl
@[simp] theorem Part.dropService_staging (p : Part) (w : Win) : (p.dropService w).staging = p.staging := rfl
@[simp] theorem Part.dropService_copy (p : Part) (w : Win) : (p.dropService w).copy = p.copy := rfl
@[simp] theorem Part.dropService_arbiter (p : Part) (w : Win) : (p.dropService w).arbiter = p.arbiter := rfl
@[simp] theorem Part.dropService_timer (p : Part) (w : Win) : (p.dropService w).timer = p.timer := rfl
@[simp] theorem Part.dropService_notices (p : Part) (w : Win) : (p.dropService w).notices = p.notices := rfl
@[simp] theorem Part.dropService_opState (p : Part) (w : Win) : (p.dropService w).opState = p.opState := rfl
@[simp] theorem Part.dropService_softReset (p : Part) (w : Win) : (p.dropService w).softReset = p.softReset := rfl

@[simp] theorem Part.note_ports (p : Part) (q : Port) (w : Win) (k : Notice) : (p.note q w k).ports = p.ports := rfl
@[simp] theorem Part.note_stallLimit (p : Part) (q : Port) (w : Win) (k : Notice) : (p.note q w k).stallLimit = p.stallLimit := rfl
@[simp] theorem Part.note_live (p : Part) (q : Port) (w : Win) (k : Notice) : (p.note q w k).live = p.live := rfl
@[simp] theorem Part.note_records (p : Part) (q : Port) (w : Win) (k : Notice) : (p.note q w k).records = p.records := rfl
@[simp] theorem Part.note_staging (p : Part) (q : Port) (w : Win) (k : Notice) : (p.note q w k).staging = p.staging := rfl
@[simp] theorem Part.note_copy (p : Part) (q : Port) (w : Win) (k : Notice) : (p.note q w k).copy = p.copy := rfl
@[simp] theorem Part.note_arbiter (p : Part) (q : Port) (w : Win) (k : Notice) : (p.note q w k).arbiter = p.arbiter := rfl
@[simp] theorem Part.note_timer (p : Part) (q : Port) (w : Win) (k : Notice) : (p.note q w k).timer = p.timer := rfl
@[simp] theorem Part.note_opState (p : Part) (q : Port) (w : Win) (k : Notice) : (p.note q w k).opState = p.opState := rfl
@[simp] theorem Part.note_softReset (p : Part) (q : Port) (w : Win) (k : Notice) : (p.note q w k).softReset = p.softReset := rfl

@[simp] theorem Part.noteBoth_ports (p : Part) (w : Win) (k : Notice) : (p.noteBoth w k).ports = p.ports := rfl
@[simp] theorem Part.noteBoth_stallLimit (p : Part) (w : Win) (k : Notice) : (p.noteBoth w k).stallLimit = p.stallLimit := rfl
@[simp] theorem Part.noteBoth_live (p : Part) (w : Win) (k : Notice) : (p.noteBoth w k).live = p.live := rfl
@[simp] theorem Part.noteBoth_records (p : Part) (w : Win) (k : Notice) : (p.noteBoth w k).records = p.records := rfl
@[simp] theorem Part.noteBoth_staging (p : Part) (w : Win) (k : Notice) : (p.noteBoth w k).staging = p.staging := rfl
@[simp] theorem Part.noteBoth_copy (p : Part) (w : Win) (k : Notice) : (p.noteBoth w k).copy = p.copy := rfl
@[simp] theorem Part.noteBoth_arbiter (p : Part) (w : Win) (k : Notice) : (p.noteBoth w k).arbiter = p.arbiter := rfl
@[simp] theorem Part.noteBoth_timer (p : Part) (w : Win) (k : Notice) : (p.noteBoth w k).timer = p.timer := rfl
@[simp] theorem Part.noteBoth_opState (p : Part) (w : Win) (k : Notice) : (p.noteBoth w k).opState = p.opState := rfl
@[simp] theorem Part.noteBoth_softReset (p : Part) (w : Win) (k : Notice) : (p.noteBoth w k).softReset = p.softReset := rfl

@[simp] theorem Part.noteGlobal_ports (p : Part) (k : GlobalNotice) : (p.noteGlobal k).ports = p.ports := rfl
@[simp] theorem Part.noteGlobal_stallLimit (p : Part) (k : GlobalNotice) : (p.noteGlobal k).stallLimit = p.stallLimit := rfl
@[simp] theorem Part.noteGlobal_live (p : Part) (k : GlobalNotice) : (p.noteGlobal k).live = p.live := rfl
@[simp] theorem Part.noteGlobal_records (p : Part) (k : GlobalNotice) : (p.noteGlobal k).records = p.records := rfl
@[simp] theorem Part.noteGlobal_staging (p : Part) (k : GlobalNotice) : (p.noteGlobal k).staging = p.staging := rfl
@[simp] theorem Part.noteGlobal_copy (p : Part) (k : GlobalNotice) : (p.noteGlobal k).copy = p.copy := rfl
@[simp] theorem Part.noteGlobal_arbiter (p : Part) (k : GlobalNotice) : (p.noteGlobal k).arbiter = p.arbiter := rfl
@[simp] theorem Part.noteGlobal_timer (p : Part) (k : GlobalNotice) : (p.noteGlobal k).timer = p.timer := rfl
@[simp] theorem Part.noteGlobal_opState (p : Part) (k : GlobalNotice) : (p.noteGlobal k).opState = p.opState := rfl
@[simp] theorem Part.noteGlobal_softReset (p : Part) (k : GlobalNotice) : (p.noteGlobal k).softReset = p.softReset := rfl

@[simp] theorem Part.clearRoleNotices_ports (p : Part) (w : Win) (q : Port) : (p.clearRoleNotices w q).ports = p.ports := rfl
@[simp] theorem Part.clearRoleNotices_stallLimit (p : Part) (w : Win) (q : Port) : (p.clearRoleNotices w q).stallLimit = p.stallLimit := rfl
@[simp] theorem Part.clearRoleNotices_live (p : Part) (w : Win) (q : Port) : (p.clearRoleNotices w q).live = p.live := rfl
@[simp] theorem Part.clearRoleNotices_records (p : Part) (w : Win) (q : Port) : (p.clearRoleNotices w q).records = p.records := rfl
@[simp] theorem Part.clearRoleNotices_staging (p : Part) (w : Win) (q : Port) : (p.clearRoleNotices w q).staging = p.staging := rfl
@[simp] theorem Part.clearRoleNotices_copy (p : Part) (w : Win) (q : Port) : (p.clearRoleNotices w q).copy = p.copy := rfl
@[simp] theorem Part.clearRoleNotices_arbiter (p : Part) (w : Win) (q : Port) : (p.clearRoleNotices w q).arbiter = p.arbiter := rfl
@[simp] theorem Part.clearRoleNotices_timer (p : Part) (w : Win) (q : Port) : (p.clearRoleNotices w q).timer = p.timer := rfl
@[simp] theorem Part.clearRoleNotices_opState (p : Part) (w : Win) (q : Port) : (p.clearRoleNotices w q).opState = p.opState := rfl
@[simp] theorem Part.clearRoleNotices_softReset (p : Part) (w : Win) (q : Port) : (p.clearRoleNotices w q).softReset = p.softReset := rfl

@[simp] theorem Part.clearNotices_ports (p : Part) (q : Port) (w : Win) : (p.clearNotices q w).ports = p.ports := rfl
@[simp] theorem Part.clearNotices_stallLimit (p : Part) (q : Port) (w : Win) : (p.clearNotices q w).stallLimit = p.stallLimit := rfl
@[simp] theorem Part.clearNotices_live (p : Part) (q : Port) (w : Win) : (p.clearNotices q w).live = p.live := rfl
@[simp] theorem Part.clearNotices_records (p : Part) (q : Port) (w : Win) : (p.clearNotices q w).records = p.records := rfl
@[simp] theorem Part.clearNotices_staging (p : Part) (q : Port) (w : Win) : (p.clearNotices q w).staging = p.staging := rfl
@[simp] theorem Part.clearNotices_copy (p : Part) (q : Port) (w : Win) : (p.clearNotices q w).copy = p.copy := rfl
@[simp] theorem Part.clearNotices_arbiter (p : Part) (q : Port) (w : Win) : (p.clearNotices q w).arbiter = p.arbiter := rfl
@[simp] theorem Part.clearNotices_timer (p : Part) (q : Port) (w : Win) : (p.clearNotices q w).timer = p.timer := rfl
@[simp] theorem Part.clearNotices_opState (p : Part) (q : Port) (w : Win) : (p.clearNotices q w).opState = p.opState := rfl
@[simp] theorem Part.clearNotices_softReset (p : Part) (q : Port) (w : Win) : (p.clearNotices q w).softReset = p.softReset := rfl

@[simp] theorem Part.setAccess_stallLimit (p : Part) (q : Port) (a : Access) : (p.setAccess q a).stallLimit = p.stallLimit := rfl
@[simp] theorem Part.setAccess_live (p : Part) (q : Port) (a : Access) : (p.setAccess q a).live = p.live := rfl
@[simp] theorem Part.setAccess_records (p : Part) (q : Port) (a : Access) : (p.setAccess q a).records = p.records := rfl
@[simp] theorem Part.setAccess_staging (p : Part) (q : Port) (a : Access) : (p.setAccess q a).staging = p.staging := rfl
@[simp] theorem Part.setAccess_copy (p : Part) (q : Port) (a : Access) : (p.setAccess q a).copy = p.copy := rfl
@[simp] theorem Part.setAccess_arbiter (p : Part) (q : Port) (a : Access) : (p.setAccess q a).arbiter = p.arbiter := rfl
@[simp] theorem Part.setAccess_timer (p : Part) (q : Port) (a : Access) : (p.setAccess q a).timer = p.timer := rfl
@[simp] theorem Part.setAccess_notices (p : Part) (q : Port) (a : Access) : (p.setAccess q a).notices = p.notices := rfl
@[simp] theorem Part.setAccess_opState (p : Part) (q : Port) (a : Access) : (p.setAccess q a).opState = p.opState := rfl
@[simp] theorem Part.setAccess_softReset (p : Part) (q : Port) (a : Access) : (p.setAccess q a).softReset = p.softReset := rfl

@[simp] theorem Part.completeAccess_stallLimit (p : Part) (q : Port) (d : Option Word) : (p.completeAccess q d).stallLimit = p.stallLimit := rfl
@[simp] theorem Part.completeAccess_live (p : Part) (q : Port) (d : Option Word) : (p.completeAccess q d).live = p.live := rfl
@[simp] theorem Part.completeAccess_records (p : Part) (q : Port) (d : Option Word) : (p.completeAccess q d).records = p.records := rfl
@[simp] theorem Part.completeAccess_staging (p : Part) (q : Port) (d : Option Word) : (p.completeAccess q d).staging = p.staging := rfl
@[simp] theorem Part.completeAccess_copy (p : Part) (q : Port) (d : Option Word) : (p.completeAccess q d).copy = p.copy := rfl
@[simp] theorem Part.completeAccess_arbiter (p : Part) (q : Port) (d : Option Word) : (p.completeAccess q d).arbiter = p.arbiter := rfl
@[simp] theorem Part.completeAccess_timer (p : Part) (q : Port) (d : Option Word) : (p.completeAccess q d).timer = p.timer := rfl
@[simp] theorem Part.completeAccess_notices (p : Part) (q : Port) (d : Option Word) : (p.completeAccess q d).notices = p.notices := rfl
@[simp] theorem Part.completeAccess_opState (p : Part) (q : Port) (d : Option Word) : (p.completeAccess q d).opState = p.opState := rfl
@[simp] theorem Part.completeAccess_softReset (p : Part) (q : Port) (d : Option Word) : (p.completeAccess q d).softReset = p.softReset := rfl

@[simp] theorem Part.takeAccess_stallLimit (p : Part) (q : Port) (a : Access) : (p.takeAccess q a).stallLimit = p.stallLimit := rfl
@[simp] theorem Part.takeAccess_live (p : Part) (q : Port) (a : Access) : (p.takeAccess q a).live = p.live := rfl
@[simp] theorem Part.takeAccess_records (p : Part) (q : Port) (a : Access) : (p.takeAccess q a).records = p.records := rfl
@[simp] theorem Part.takeAccess_staging (p : Part) (q : Port) (a : Access) : (p.takeAccess q a).staging = p.staging := rfl
@[simp] theorem Part.takeAccess_copy (p : Part) (q : Port) (a : Access) : (p.takeAccess q a).copy = p.copy := rfl
@[simp] theorem Part.takeAccess_arbiter (p : Part) (q : Port) (a : Access) : (p.takeAccess q a).arbiter = p.arbiter := rfl
@[simp] theorem Part.takeAccess_timer (p : Part) (q : Port) (a : Access) : (p.takeAccess q a).timer = p.timer := rfl
@[simp] theorem Part.takeAccess_notices (p : Part) (q : Port) (a : Access) : (p.takeAccess q a).notices = p.notices := rfl
@[simp] theorem Part.takeAccess_opState (p : Part) (q : Port) (a : Access) : (p.takeAccess q a).opState = p.opState := rfl
@[simp] theorem Part.takeAccess_softReset (p : Part) (q : Port) (a : Access) : (p.takeAccess q a).softReset = p.softReset := rfl

@[simp] theorem Part.setChannel_ports (p : Part) (c : Chan) (ch : Channel) : (p.setChannel c ch).ports = p.ports := rfl
@[simp] theorem Part.setChannel_stallLimit (p : Part) (c : Chan) (ch : Channel) : (p.setChannel c ch).stallLimit = p.stallLimit := rfl
@[simp] theorem Part.setChannel_live (p : Part) (c : Chan) (ch : Channel) : (p.setChannel c ch).live = p.live := rfl
@[simp] theorem Part.setChannel_records (p : Part) (c : Chan) (ch : Channel) : (p.setChannel c ch).records = p.records := rfl
@[simp] theorem Part.setChannel_staging (p : Part) (c : Chan) (ch : Channel) : (p.setChannel c ch).staging = p.staging := rfl
@[simp] theorem Part.setChannel_arbiter (p : Part) (c : Chan) (ch : Channel) : (p.setChannel c ch).arbiter = p.arbiter := rfl
@[simp] theorem Part.setChannel_timer (p : Part) (c : Chan) (ch : Channel) : (p.setChannel c ch).timer = p.timer := rfl
@[simp] theorem Part.setChannel_notices (p : Part) (c : Chan) (ch : Channel) : (p.setChannel c ch).notices = p.notices := rfl
@[simp] theorem Part.setChannel_opState (p : Part) (c : Chan) (ch : Channel) : (p.setChannel c ch).opState = p.opState := rfl
@[simp] theorem Part.setChannel_softReset (p : Part) (c : Chan) (ch : Channel) : (p.setChannel c ch).softReset = p.softReset := rfl

@[simp] theorem Part.setChannelWork_ports (p : Part) (c : Chan) (k : ChannelWork) : (p.setChannelWork c k).ports = p.ports := rfl
@[simp] theorem Part.setChannelWork_stallLimit (p : Part) (c : Chan) (k : ChannelWork) : (p.setChannelWork c k).stallLimit = p.stallLimit := rfl
@[simp] theorem Part.setChannelWork_live (p : Part) (c : Chan) (k : ChannelWork) : (p.setChannelWork c k).live = p.live := rfl
@[simp] theorem Part.setChannelWork_records (p : Part) (c : Chan) (k : ChannelWork) : (p.setChannelWork c k).records = p.records := rfl
@[simp] theorem Part.setChannelWork_staging (p : Part) (c : Chan) (k : ChannelWork) : (p.setChannelWork c k).staging = p.staging := rfl
@[simp] theorem Part.setChannelWork_arbiter (p : Part) (c : Chan) (k : ChannelWork) : (p.setChannelWork c k).arbiter = p.arbiter := rfl
@[simp] theorem Part.setChannelWork_timer (p : Part) (c : Chan) (k : ChannelWork) : (p.setChannelWork c k).timer = p.timer := rfl
@[simp] theorem Part.setChannelWork_notices (p : Part) (c : Chan) (k : ChannelWork) : (p.setChannelWork c k).notices = p.notices := rfl
@[simp] theorem Part.setChannelWork_opState (p : Part) (c : Chan) (k : ChannelWork) : (p.setChannelWork c k).opState = p.opState := rfl
@[simp] theorem Part.setChannelWork_softReset (p : Part) (c : Chan) (k : ChannelWork) : (p.setChannelWork c k).softReset = p.softReset := rfl

@[simp] theorem Part.setTouchWork_ports (p : Part) (k : TouchWork) : (p.setTouchWork k).ports = p.ports := rfl
@[simp] theorem Part.setTouchWork_stallLimit (p : Part) (k : TouchWork) : (p.setTouchWork k).stallLimit = p.stallLimit := rfl
@[simp] theorem Part.setTouchWork_live (p : Part) (k : TouchWork) : (p.setTouchWork k).live = p.live := rfl
@[simp] theorem Part.setTouchWork_records (p : Part) (k : TouchWork) : (p.setTouchWork k).records = p.records := rfl
@[simp] theorem Part.setTouchWork_staging (p : Part) (k : TouchWork) : (p.setTouchWork k).staging = p.staging := rfl
@[simp] theorem Part.setTouchWork_arbiter (p : Part) (k : TouchWork) : (p.setTouchWork k).arbiter = p.arbiter := rfl
@[simp] theorem Part.setTouchWork_timer (p : Part) (k : TouchWork) : (p.setTouchWork k).timer = p.timer := rfl
@[simp] theorem Part.setTouchWork_notices (p : Part) (k : TouchWork) : (p.setTouchWork k).notices = p.notices := rfl
@[simp] theorem Part.setTouchWork_opState (p : Part) (k : TouchWork) : (p.setTouchWork k).opState = p.opState := rfl
@[simp] theorem Part.setTouchWork_softReset (p : Part) (k : TouchWork) : (p.setTouchWork k).softReset = p.softReset := rfl

@[simp] theorem Part.setWaiting_ports (p : Part) (l : List WaitEntry) : (p.setWaiting l).ports = p.ports := rfl
@[simp] theorem Part.setWaiting_stallLimit (p : Part) (l : List WaitEntry) : (p.setWaiting l).stallLimit = p.stallLimit := rfl
@[simp] theorem Part.setWaiting_live (p : Part) (l : List WaitEntry) : (p.setWaiting l).live = p.live := rfl
@[simp] theorem Part.setWaiting_records (p : Part) (l : List WaitEntry) : (p.setWaiting l).records = p.records := rfl
@[simp] theorem Part.setWaiting_staging (p : Part) (l : List WaitEntry) : (p.setWaiting l).staging = p.staging := rfl
@[simp] theorem Part.setWaiting_arbiter (p : Part) (l : List WaitEntry) : (p.setWaiting l).arbiter = p.arbiter := rfl
@[simp] theorem Part.setWaiting_timer (p : Part) (l : List WaitEntry) : (p.setWaiting l).timer = p.timer := rfl
@[simp] theorem Part.setWaiting_notices (p : Part) (l : List WaitEntry) : (p.setWaiting l).notices = p.notices := rfl
@[simp] theorem Part.setWaiting_opState (p : Part) (l : List WaitEntry) : (p.setWaiting l).opState = p.opState := rfl
@[simp] theorem Part.setWaiting_softReset (p : Part) (l : List WaitEntry) : (p.setWaiting l).softReset = p.softReset := rfl

@[simp] theorem Part.setQueue_ports (p : Part) (l : List TouchEntry) : (p.setQueue l).ports = p.ports := rfl
@[simp] theorem Part.setQueue_stallLimit (p : Part) (l : List TouchEntry) : (p.setQueue l).stallLimit = p.stallLimit := rfl
@[simp] theorem Part.setQueue_live (p : Part) (l : List TouchEntry) : (p.setQueue l).live = p.live := rfl
@[simp] theorem Part.setQueue_records (p : Part) (l : List TouchEntry) : (p.setQueue l).records = p.records := rfl
@[simp] theorem Part.setQueue_staging (p : Part) (l : List TouchEntry) : (p.setQueue l).staging = p.staging := rfl
@[simp] theorem Part.setQueue_arbiter (p : Part) (l : List TouchEntry) : (p.setQueue l).arbiter = p.arbiter := rfl
@[simp] theorem Part.setQueue_timer (p : Part) (l : List TouchEntry) : (p.setQueue l).timer = p.timer := rfl
@[simp] theorem Part.setQueue_notices (p : Part) (l : List TouchEntry) : (p.setQueue l).notices = p.notices := rfl
@[simp] theorem Part.setQueue_opState (p : Part) (l : List TouchEntry) : (p.setQueue l).opState = p.opState := rfl
@[simp] theorem Part.setQueue_softReset (p : Part) (l : List TouchEntry) : (p.setQueue l).softReset = p.softReset := rfl

/-! ## What an update puts there -/

@[simp] theorem Part.record_setRecord_same (p : Part) (w : Win) (r : Record) : (p.setRecord w r).record w = r := by
  simp [Part.record, Part.setRecord]

theorem Part.record_setRecord_ne (p : Part) {w v : Win} (h : v ≠ w) (r : Record) :
    (p.setRecord w r).record v = p.record v := by
  have h' : w.val ≠ v.val := fun e => h (Fin.ext e.symm)
  simp [Part.record, Part.setRecord, h']

@[simp] theorem Part.service_setService_same (p : Part) (w : Win) (sv : Service) :
    (p.setService w sv).service w = some sv := by
  simp [Part.service, Part.setService]

theorem Part.service_setService_ne (p : Part) {w v : Win} (h : v ≠ w) (sv : Service) :
    (p.setService w sv).service v = p.service v := by
  simp [Part.service, Part.setService, Part.record_setRecord_ne p h]

@[simp] theorem Part.service_dropService_same (p : Part) (w : Win) : (p.dropService w).service w = none := by
  simp [Part.service, Part.dropService]

@[simp] theorem Part.accessOf_setAccess_same (p : Part) (q : Port) (a : Access) :
    (p.setAccess q a).accessOf q = some a := by
  simp [Part.accessOf, Part.setAccess]

theorem Part.accessOf_setAccess_ne (p : Part) {q r : Port} (h : r ≠ q) (a : Access) :
    (p.setAccess q a).accessOf r = p.accessOf r := by
  simp [Part.accessOf, Part.setAccess, PerPort.get_set_ne _ h]

@[simp] theorem Part.accessOf_completeAccess_same (p : Part) (q : Port) (d : Option Word) :
    (p.completeAccess q d).accessOf q = none := by
  simp [Part.accessOf, Part.completeAccess]

@[simp] theorem Part.accessOf_takeAccess_same (p : Part) (q : Port) (a : Access) :
    (p.takeAccess q a).accessOf q = some a := by
  simp [Part.accessOf, Part.takeAccess]

@[simp] theorem Part.channel_setChannel_same (p : Part) (c : Chan) (ch : Channel) :
    (p.setChannel c ch).channel c = ch := by
  simp [Part.channel, Part.setChannel]

theorem Part.channel_setChannel_ne (p : Part) {c d : Chan} (h : d ≠ c) (ch : Channel) :
    (p.setChannel c ch).channel d = p.channel d := by
  have h' : c.val ≠ d.val := fun e => h (Fin.ext e.symm)
  simp [Part.channel, Part.setChannel, h']

/-! ## The state's updates -/

@[simp] theorem State.frameEnded_part (s : State) : s.frameEnded.part = s.part := rfl
@[simp] theorem State.frameEnded_reply (s : State) : s.frameEnded.link.reply = s.link.reply := rfl
@[simp] theorem State.frameEnded_mem (s : State) : s.frameEnded.mem = s.mem := rfl
@[simp] theorem State.withReply_part (s : State) (r : List Byte) : (s.withReply r).part = s.part := rfl
@[simp] theorem State.withReply_mem (s : State) (r : List Byte) : (s.withReply r).mem = s.mem := rfl
@[simp] theorem State.withReply_frame (s : State) (r : List Byte) : (s.withReply r).link.frame = s.link.frame := rfl
@[simp] theorem State.withReply_reply (s : State) (r : List Byte) : (s.withReply r).link.reply = r := rfl
@[simp] theorem State.result_part (s : State) (r : Result) : (s.result r).part = s.part := rfl
@[simp] theorem State.result_mem (s : State) (r : Result) : (s.result r).mem = s.mem := rfl
@[simp] theorem State.carryOut_part (s : State) (f : Part → Part) : (s.carryOut f).part = f s.part := rfl
@[simp] theorem State.carryOut_mem (s : State) (f : Part → Part) : (s.carryOut f).mem = s.mem := rfl
@[simp] theorem State.useFree_part (s : State) : s.useFree.part = s.part := rfl
@[simp] theorem State.useFree_mem (s : State) : s.useFree.mem = s.mem := rfl
@[simp] theorem State.useFree_link (s : State) : s.useFree.link = s.link := rfl

end Sys2Proof.Machine
end

