-- ==== Sys2Proof/Laws/Moves.lean ====
section
/-!
SUPPORT. Said once: what the work inside an event can do to the part. `Part.Moves p q` holds of every shared operation
from `p` to its result `q`; an invariant is then a fact about the few changes of a record and not about each operation.
-/

namespace Sys2Proof.Machine

/-! ## The changes of a window's record -/

/-- No line of the first set is missing from the second. -/
def linesWithin (s t : LineSet) : Prop := s &&& ~~~t = 0#64

theorem linesWithin_refl (s : LineSet) : linesWithin s s := by simp [linesWithin]

theorem linesWithin_drop (s : LineSet) (l : Nat) : linesWithin (dropLine s l) s := by
  simp only [linesWithin, dropLine]
  ext i hi
  simp
  tauto

theorem eq_noLines_of_within {s t : LineSet} (h : linesWithin s t) (ht : t = noLines) : s = noLines := by
  subst ht
  have h' : s &&& ~~~(0#64) = 0#64 := h
  rwa [BitVec.not_zero, BitVec.and_allOnes] at h'

/-- One change of a record. `inner` is every change that leaves the roles alone, makes no bank but the back stale on more
lines and does not take a RETIRING window back; a window is enabled only where `en` allows it. -/
inductive Record.Change (en : Bool) : Record → Record → Prop
  | release (r : Record) (sv : Service) (h : r.service = some sv) (fresh : sv.backStale = noLines) :
      Record.Change en r (r.released sv)
  | flip (r : Record) (sv : Service) (image : ReadyImage) (late : Bool) (h : r.service = some sv)
      (ready : sv.ready = some image) : Record.Change en r (r.flipped sv image late)
  | enable (r : Record) (d : Descriptor) (h : en = true) : Record.Change en r (Record.enabled d)
  | off (r : Record) : Record.Change en r { r with service := none }
  | inner (r : Record) (sv sv' : Service) (h : r.service = some sv) (front : sv'.front = sv.front)
      (back : sv'.back = sv.back) (ready : sv'.ready = sv.ready) (geometry : sv'.geometry = sv.geometry)
      (retiring : sv.retiring = true → sv'.retiring = true)
      (stale : ∀ k, k ≠ sv.back → linesWithin (sv'.stale.get k) (sv.stale.get k)) :
      Record.Change en r { r with service := some sv' }
  | age (r : Record) : Record.Change en r { r with age := saturate r.age }

/-- Any number of changes of a record. -/
def Record.Changes (en : Bool) : Record → Record → Prop := Relation.ReflTransGen (Record.Change en)

theorem Record.Change.mono {r r' : Record} {en : Bool} (h : Record.Change false r r') : Record.Change en r r' := by
  cases h with
  | release sv h fresh => exact .release _ sv h fresh
  | flip sv image late h ready => exact .flip _ sv image late h ready
  | enable d h => cases h
  | off => exact .off _
  | inner sv sv' h f b r g t s => exact .inner _ sv sv' h f b r g t s
  | age => exact .age _

/-- Nothing brings a window that is OFF back but an enable (R2, R23). -/
theorem Record.Changes.off {r r' : Record} (h : Record.Changes false r r') (hr : r.service = none) :
    r'.service = none := by
  induction h with
  | refl => exact hr
  | tail _ hc ih =>
    cases hc with
    | release sv h _ => rw [ih] at h; cases h
    | flip sv image late h _ => rw [ih] at h; cases h
    | enable d h => cases h
    | off => rfl
    | inner sv sv' h _ _ _ _ _ _ => rw [ih] at h; cases h
    | age => exact ih

/-! ## The moves of the part -/

/-- The notice state of a port goes on: its masks, its routing and its poll order stay, and no global notice is lost. -/
def NoticeUnit.onward (m n : NoticeUnit) : Prop :=
  n.pollOrder = m.pollOrder ∧ n.kindMask = m.kindMask ∧ n.windowMask = m.windowMask ∧ n.routing = m.routing ∧
    m.global &&& ~~~n.global = 0#6

/-- What the work inside an event can do: the descriptors, the stage, the settings and the masks stay; the timer and the
operating state stay, or the part falls from STOPPING to STANDBY with every window OFF; each record goes through
changes. -/
structure Part.Moves (en : Bool) (p q : Part) : Prop where
  live : q.live = p.live
  staging : q.staging = p.staging
  stallLimit : q.stallLimit = p.stallLimit
  softReset : q.softReset = p.softReset
  runLimit : q.arbiter.runLimit = p.arbiter.runLimit
  accessTime : q.arbiter.accessTime = p.arbiter.accessTime
  portRun : p.arbiter.portRun ≤ 15 → q.arbiter.portRun ≤ 15
  control : q.timer = p.timer ∧ q.opState = p.opState ∨
    p.opState = .stopping ∧ q.opState = .standby ∧ q.timer = p.timer.stop ∧
      (en = false → ∀ w, (q.record w).service = none)
  masks : ∀ c, (q.channel c).masked = (p.channel c).masked
  noticesA : NoticeUnit.onward p.notices.a q.notices.a
  noticesB : NoticeUnit.onward p.notices.b q.notices.b
  records : ∀ w, Record.Changes en (p.record w) (q.record w)

theorem Timer.stop_stop (t : Timer) : t.stop.stop = t.stop := rfl

theorem noneLost {g h : GlobalSet} (e : h = g) : g &&& ~~~h = 0#6 := by simp [e]

theorem NoticeUnit.onward_refl (n : NoticeUnit) : NoticeUnit.onward n n := ⟨rfl, rfl, rfl, rfl, noneLost rfl⟩

theorem NoticeUnit.onward_trans {l m n : NoticeUnit} (h : NoticeUnit.onward l m)
    (k : NoticeUnit.onward m n) : NoticeUnit.onward l n :=
  ⟨k.1.trans h.1, k.2.1.trans h.2.1, k.2.2.1.trans h.2.2.1, k.2.2.2.1.trans h.2.2.2.1, by
    have hg := h.2.2.2.2
    have kg := k.2.2.2.2
    ext i hi
    have hg' := congrArg (fun x => x.getLsbD i) hg
    have kg' := congrArg (fun x => x.getLsbD i) kg
    simp [hi, BitVec.getLsbD_eq_getElem] at hg' kg' ⊢
    tauto⟩

theorem Part.Moves.refl {en : Bool} (p : Part) : Part.Moves en p p :=
  ⟨rfl, rfl, rfl, rfl, rfl, rfl, id, .inl ⟨rfl, rfl⟩, fun _ => rfl, NoticeUnit.onward_refl _,
    NoticeUnit.onward_refl _, fun _ => .refl⟩

theorem Part.Moves.mono {en : Bool} {p q : Part} (h : Part.Moves false p q) : Part.Moves en p q :=
  { h with
    control := h.control.imp id (fun c => ⟨c.1, c.2.1, c.2.2.1, fun _ => c.2.2.2 rfl⟩)
    records := fun w => Relation.ReflTransGen.mono (fun _ _ hc => Record.Change.mono hc) _ _ (h.records w) }

theorem Part.Moves.trans {en : Bool} {p q r : Part} (h : Part.Moves en p q) (k : Part.Moves en q r) :
    Part.Moves en p r where
  live := k.live.trans h.live
  staging := k.staging.trans h.staging
  stallLimit := k.stallLimit.trans h.stallLimit
  softReset := k.softReset.trans h.softReset
  runLimit := k.runLimit.trans h.runLimit
  accessTime := k.accessTime.trans h.accessTime
  portRun := k.portRun ∘ h.portRun
  control := by
    rcases h.control with ⟨h1, h2⟩ | ⟨h1, h2, h3, h4⟩ <;> rcases k.control with ⟨k1, k2⟩ | ⟨k1, k2, k3, k4⟩
    · exact .inl ⟨k1.trans h1, k2.trans h2⟩
    · exact .inr ⟨h2 ▸ k1, k2, by rw [k3, h1], k4⟩
    · refine .inr ⟨h1, k2.trans h2, k1.trans h3, fun he w => ?_⟩
      subst he
      exact (k.records w).off (h4 rfl w)
    · rw [h2] at k1
      cases k1
  masks := fun c => (k.masks c).trans (h.masks c)
  noticesA := NoticeUnit.onward_trans h.noticesA k.noticesA
  noticesB := NoticeUnit.onward_trans h.noticesB k.noticesB
  records := fun w => (h.records w).trans (k.records w)

/-- A change of nothing but the ports, the Copy Engine or the access of the memory port. -/
theorem Part.Moves.idle {en : Bool} {p q : Part} (live : q.live = p.live) (staging : q.staging = p.staging)
    (stallLimit : q.stallLimit = p.stallLimit) (softReset : q.softReset = p.softReset)
    (runLimit : q.arbiter.runLimit = p.arbiter.runLimit) (accessTime : q.arbiter.accessTime = p.arbiter.accessTime)
    (portRun : p.arbiter.portRun ≤ 15 → q.arbiter.portRun ≤ 15) (timer : q.timer = p.timer)
    (opState : q.opState = p.opState) (masks : ∀ c, (q.channel c).masked = (p.channel c).masked)
    (notices : q.notices = p.notices) (records : q.records = p.records) : Part.Moves en p q :=
  ⟨live, staging, stallLimit, softReset, runLimit, accessTime, portRun, .inl ⟨timer, opState⟩, masks,
    notices ▸ NoticeUnit.onward_refl _, notices ▸ NoticeUnit.onward_refl _,
    fun w => by simp only [Part.record, records]; exact .refl⟩

/-! ### Ports, notices, Copy Engine -/

variable {en : Bool}

theorem Part.moves_setAccess (p : Part) (q : Port) (a : Access) : Part.Moves en p (p.setAccess q a) :=
  .idle rfl rfl rfl rfl rfl rfl id rfl rfl (fun _ => rfl) rfl rfl

theorem Part.moves_completeAccess (p : Part) (q : Port) (d : Option Word) : Part.Moves en p (p.completeAccess q d) :=
  .idle rfl rfl rfl rfl rfl rfl id rfl rfl (fun _ => rfl) rfl rfl

theorem Part.moves_takeAccess (p : Part) (q : Port) (a : Access) : Part.Moves en p (p.takeAccess q a) :=
  .idle rfl rfl rfl rfl rfl rfl id rfl rfl (fun _ => rfl) rfl rfl

/-- A change of the Copy Engine alone. -/
theorem Part.moves_copy {p : Part} {e : CopyEngine} (h : ∀ c : Chan, e.channels[c].masked = p.copy.channels[c].masked) :
    Part.Moves en p { p with copy := e } :=
  .idle rfl rfl rfl rfl rfl rfl id rfl rfl h rfl rfl

theorem Part.moves_notices {p : Part} {n : PerPort NoticeUnit} (ha : NoticeUnit.onward p.notices.a n.a)
    (hb : NoticeUnit.onward p.notices.b n.b) : Part.Moves en p { p with notices := n } :=
  ⟨rfl, rfl, rfl, rfl, rfl, rfl, id, .inl ⟨rfl, rfl⟩, fun _ => rfl, ha, hb, fun _ => .refl⟩

theorem Part.moves_note (p : Part) (q : Port) (w : Win) (k : Notice) : Part.Moves en p (p.note q w k) := by
  cases q <;> exact Part.moves_notices ⟨rfl, rfl, rfl, rfl, noneLost rfl⟩ ⟨rfl, rfl, rfl, rfl, noneLost rfl⟩

theorem Part.moves_noteBoth (p : Part) (w : Win) (k : Notice) : Part.Moves en p (p.noteBoth w k) :=
  (p.moves_note .a w k).trans (Part.moves_note _ .b w k)

theorem NoticeUnit.onward_recordGlobal (n : NoticeUnit) (k : GlobalNotice) :
    NoticeUnit.onward n (n.recordGlobal k) := by
  unfold NoticeUnit.recordGlobal
  split
  · refine ⟨rfl, rfl, rfl, rfl, ?_⟩
    simp only [GlobalSet.add]
    ext i hi
    simp
    intro h1 h2
    simp [h1] at h2
  · exact NoticeUnit.onward_refl _

theorem Part.moves_noteGlobal (p : Part) (k : GlobalNotice) : Part.Moves en p (p.noteGlobal k) :=
  Part.moves_notices (NoticeUnit.onward_recordGlobal _ _) (NoticeUnit.onward_recordGlobal _ _)

theorem Part.moves_clearRoleNotices (p : Part) (w : Win) (q : Port) : Part.Moves en p (p.clearRoleNotices w q) :=
  Part.moves_notices ⟨rfl, rfl, rfl, rfl, noneLost rfl⟩ ⟨rfl, rfl, rfl, rfl, noneLost rfl⟩

theorem Part.moves_clearNotices (p : Part) (q : Port) (w : Win) : Part.Moves en p (p.clearNotices q w) := by
  cases q <;> exact Part.moves_notices ⟨rfl, rfl, rfl, rfl, noneLost rfl⟩ ⟨rfl, rfl, rfl, rfl, noneLost rfl⟩

theorem Part.moves_setChannel {p : Part} {c : Chan} {ch : Channel} (h : ch.masked = (p.channel c).masked) :
    Part.Moves en p (p.setChannel c ch) :=
  .idle rfl rfl rfl rfl rfl rfl id rfl rfl (fun d => by
    by_cases hd : d = c
    · subst hd; simpa using h
    · rw [Part.channel_setChannel_ne p hd]) rfl rfl

theorem Part.moves_setChannelWork (p : Part) (c : Chan) (k : ChannelWork) : Part.Moves en p (p.setChannelWork c k) :=
  Part.moves_setChannel rfl

theorem Part.moves_setTouchWork (p : Part) (k : TouchWork) : Part.Moves en p (p.setTouchWork k) :=
  Part.moves_copy (fun _ => rfl)

theorem Part.moves_setWaiting (p : Part) (l : List WaitEntry) : Part.Moves en p (p.setWaiting l) :=
  Part.moves_copy (fun _ => rfl)

theorem Part.moves_setQueue (p : Part) (l : List TouchEntry) : Part.Moves en p (p.setQueue l) :=
  Part.moves_copy (fun _ => rfl)

/-! ### Records -/

/-- A change of one record. -/
theorem Part.moves_setRecord {p : Part} {w : Win} {r : Record} (h : Record.Changes en (p.record w) r) :
    Part.Moves en p (p.setRecord w r) where
  live := rfl
  staging := rfl
  stallLimit := rfl
  softReset := rfl
  runLimit := rfl
  accessTime := rfl
  portRun := id
  control := .inl ⟨rfl, rfl⟩
  masks := fun _ => rfl
  noticesA := NoticeUnit.onward_refl _
  noticesB := NoticeUnit.onward_refl _
  records := fun v => by
    by_cases hv : v = w
    · subst hv; simpa using h
    · rw [Part.record_setRecord_ne p hv]; exact .refl

/-- A change inside the service state that leaves the roles alone. -/
theorem Part.moves_setService {p : Part} {w : Win} {sv sv' : Service} (h : p.service w = some sv)
    (front : sv'.front = sv.front) (back : sv'.back = sv.back) (ready : sv'.ready = sv.ready)
    (geometry : sv'.geometry = sv.geometry) (retiring : sv.retiring = true → sv'.retiring = true)
    (stale : ∀ k, k ≠ sv.back → linesWithin (sv'.stale.get k) (sv.stale.get k)) :
    Part.Moves en p (p.setService w sv') :=
  Part.moves_setRecord (.single (.inner _ sv sv' h front back ready geometry retiring stale))

/-- The same where the stale sets do not change at all. -/
theorem Part.moves_setService_flags {p : Part} {w : Win} {sv sv' : Service} (h : p.service w = some sv)
    (front : sv'.front = sv.front) (back : sv'.back = sv.back) (ready : sv'.ready = sv.ready)
    (geometry : sv'.geometry = sv.geometry) (retiring : sv'.retiring = sv.retiring) (stale : sv'.stale = sv.stale) :
    Part.Moves en p (p.setService w sv') :=
  Part.moves_setService h front back ready geometry (fun hr => retiring.trans hr) (fun _ _ => stale ▸ linesWithin_refl _)

theorem Part.moves_dropService (p : Part) (w : Win) : Part.Moves en p (p.dropService w) :=
  Part.moves_setRecord (.single (.off _))

theorem Part.moves_flip (p : Part) (w : Win) (late : Bool) : Part.Moves en p (p.flip w late) := by
  unfold Part.flip
  repeat' split
  · exact .refl p
  · exact .refl p
  · exact (Part.moves_setRecord (.single (.flip _ _ _ _ ‹_› ‹_›))).trans (Part.moves_note _ _ _ _)

theorem Part.moves_endPin (p : Part) (w : Win) : Part.Moves en p (p.endPin w) := by
  unfold Part.endPin
  split
  · exact .refl p
  · rename_i sv hsv
    exact Part.moves_setService_flags (sv := sv) hsv rfl rfl rfl rfl rfl rfl

theorem Part.moves_unpin (p : Part) (w : Win) : Part.Moves en p (p.unpin w) := by
  unfold Part.unpin
  repeat' split
  · exact .refl p
  · exact (p.moves_endPin w).trans (Part.moves_flip _ _ _)
  · exact .refl p

theorem Part.moves_pinBySeq (p : Part) (w : Win) : Part.Moves en p (p.pinBySeq w) := by
  unfold Part.pinBySeq
  split
  · exact .refl p
  · rename_i sv hsv
    split
    · exact Part.moves_setService_flags (sv := sv) hsv rfl rfl rfl rfl rfl rfl
    · exact .refl p

/-! ### Waiting list, jobs, retire -/

theorem Part.moves_join (p : Part) (w : Win) (job : Job) : Part.Moves en p (p.join w job) := by
  unfold Part.join
  split
  · exact p.moves_setWaiting _
  · exact .refl p

theorem Part.moves_promote (p : Part) (w : Win) : Part.Moves en p (p.promote w) := by
  unfold Part.promote
  repeat' split
  · exact .refl p
  · exact .refl p
  · exact p.moves_setWaiting _

theorem Part.moves_giveBack (p : Part) (c : Chan) (w : Win) (job : Job) : Part.Moves en p (p.giveBack c w job) :=
  (p.moves_setChannelWork c .idle).trans (Part.moves_setWaiting _ _)

theorem Part.moves_enable (p : Part) (w : Win) : Part.Moves true p (p.enable w) :=
  ((Part.moves_setRecord (.single (.enable _ _ rfl))).trans (Part.moves_clearRoleNotices _ _ _)).trans (Part.moves_join _ _ _)

/-- A release of a back that is stale on no line. -/
theorem Part.moves_release {p : Part} {w : Win} (fresh : ∀ sv, p.service w = some sv → sv.backStale = noLines) :
    Part.Moves en p (p.release w) := by
  unfold Part.release
  split
  · exact .refl p
  · rename_i sv hsv
    have h1 : Part.Moves en p (if sv.ready.isSome then p.note sv.consumer w .dropped else p) := by
      split
      · exact Part.moves_note _ _ _ _
      · exact .refl p
    have h2 : (if sv.ready.isSome then p.note sv.consumer w .dropped else p).record w = p.record w := by
      split <;> rfl
    have h3 : Part.Moves en p ((if sv.ready.isSome then p.note sv.consumer w .dropped else p).setRecord w
        ((p.record w).released sv)) :=
      h1.trans (Part.moves_setRecord (by rw [h2]; exact .single (.release _ sv hsv (fresh sv hsv))))
    dsimp only
    split
    · exact h3.trans (Part.moves_note _ _ _ _)
    · exact h3.trans (Part.moves_join _ _ _)

theorem Part.caughtUp_fresh {p : Part} {w : Win} {sv : Service} (h : p.caughtUp w sv = true) :
    sv.backStale = noLines := by
  simp only [Part.caughtUp, Bool.and_eq_true, decide_eq_true_eq] at h
  exact h.1

theorem Part.moves_explicitRelease (p : Part) (w : Win) : Part.Moves en p (p.explicitRelease w) := by
  unfold Part.explicitRelease
  split
  · exact .refl p
  · rename_i sv hsv
    split
    · exact Part.moves_release (fun sv' h => by
        rw [hsv] at h; cases h; exact Part.caughtUp_fresh ‹_›)
    · exact (Part.moves_setService_flags (sv := sv) (sv' := { sv with releasePending := true }) hsv rfl rfl rfl rfl
        rfl rfl).trans (Part.moves_promote _ _)

/-- The dirty lines join the back's own stale set: no other bank changes (R55, R68). -/
theorem Service.dirtyToStale_within (sv : Service) (k : Bank) (h : k ≠ sv.back) :
    linesWithin (sv.dirtyToStale.stale.get k) (sv.stale.get k) := by
  simp only [Service.dirtyToStale, PerBank.get_set_ne _ h]
  exact linesWithin_refl _

theorem Part.moves_abandon (p : Part) (w : Win) : Part.Moves en p (p.abandon w) := by
  unfold Part.abandon
  split
  · exact .refl p
  · rename_i sv hsv
    have h1 := Part.moves_setService (en := en) (sv' := sv.dirtyToStale) hsv rfl rfl rfl rfl id sv.dirtyToStale_within
    dsimp only
    split
    · exact h1
    · exact h1.trans (Part.moves_join _ _ _)

theorem Part.moves_retireRecord (p : Part) (w : Win) : Part.Moves en p (p.retireRecord w) := by
  unfold Part.retireRecord
  have h1 := (p.moves_endPin (en := en) w).trans (Part.moves_flip (p.endPin w) w false)
  dsimp only
  split
  · exact h1
  · rename_i sv hsv
    exact h1.trans (Part.moves_setService hsv rfl rfl rfl rfl (fun _ => rfl) sv.dirtyToStale_within)

theorem Part.moves_removeTouches (p : Part) (w : Win) (all : Bool) : Part.Moves en p (p.removeTouches w all) :=
  Part.moves_copy (fun _ => rfl)

theorem Part.moves_drainWindow (p : Part) (w : Win) : Part.Moves en p (p.drainWindow w) :=
  Part.moves_copy (fun c => by simp)

theorem Part.moves_convertToRetire (p : Part) (w : Win) : Part.Moves en p (p.convertToRetire w) := by
  unfold Part.convertToRetire
  split
  · exact p.moves_join _ _
  · exact Part.moves_copy (fun c => by simp)

theorem Part.moves_retire (p : Part) (w : Win) : Part.Moves en p (p.retire w) := by
  unfold Part.retire
  have h1 := p.moves_retireRecord (en := en) w
  dsimp only
  repeat' split
  · exact h1
  · exact (((h1.trans (Part.moves_removeTouches _ _ _)).trans (Part.moves_drainWindow _ _)).trans
      (Part.moves_dropService _ _)).trans (Part.moves_noteBoth _ _ _)
  · exact (h1.trans (Part.moves_removeTouches _ _ _)).trans (Part.moves_convertToRetire _ _)

theorem mem_allWindows (w : Win) : w ∈ allWindows := by
  revert w
  decide

theorem Part.allOff_service (p : Part) (h : p.allOff = true) (w : Win) : p.service w = none := by
  simp only [Part.allOff, List.all_eq_true] at h
  simpa using h w (mem_allWindows w)

theorem Part.moves_checkStandby (p : Part) : Part.Moves en p p.checkStandby := by
  unfold Part.checkStandby
  split
  · rename_i h
    refine Part.Moves.trans ?_ (Part.moves_noteGlobal _ _)
    exact ⟨rfl, rfl, rfl, rfl, rfl, rfl, id, .inr ⟨h.1, rfl, rfl, fun _ w => p.allOff_service h.2 w⟩, fun _ => rfl,
      NoticeUnit.onward_refl _, NoticeUnit.onward_refl _, fun _ => .refl⟩
  · exact .refl p

theorem Part.moves_endJob (p : Part) (w : Win) : Part.Moves en p (p.endJob w) :=
  Part.moves_copy (fun c => by
    simp only [Fin.getElem_fin, Vector.getElem_map]
    split
    · split <;> rfl
    · rfl)

theorem Part.moves_completeRetire (p : Part) (w : Win) : Part.Moves en p (p.completeRetire w) :=
  (((p.moves_endJob w).trans (Part.moves_dropService _ _)).trans (Part.moves_noteBoth _ _ _)).trans
    (Part.moves_checkStandby _)

theorem Part.moves_completeCatchUp {p : Part} {w : Win} (fresh : ∀ sv, p.service w = some sv → sv.backStale = noLines) :
    Part.Moves en p (p.completeCatchUp w) := by
  unfold Part.completeCatchUp
  have h1 := p.moves_endJob (en := en) w
  dsimp only
  split
  · exact h1
  · rename_i sv hsv
    have h2 := h1.trans (Part.moves_note (p.endJob w) sv.geometry.producer w .backReady)
    split
    · exact h2.trans (Part.moves_release (fun sv' h => fresh sv' h))
    · exact h2

theorem Part.moves_testJob (p : Part) (w : Win) : Part.Moves en p (p.testJob w) := by
  unfold Part.testJob
  split
  · rename_i hc
    split
    · rename_i hj
      refine Part.moves_completeCatchUp (fun sv hsv => ?_)
      simp only [Part.jobComplete, hsv, hj, Bool.and_eq_true, decide_eq_true_eq] at hc
      exact hc.1
    · exact p.moves_completeRetire w
    · exact .refl p
  · exact .refl p

theorem Part.moves_selectLine (p : Part) (c : Chan) : Part.Moves en p (p.selectLine c) := by
  unfold Part.selectLine
  repeat' split
  all_goals first | exact p.moves_setChannelWork _ _ | exact .refl p

theorem Part.moves_channelStep (p : Part) (c : Chan) : Part.Moves en p (p.channelStep c) := by
  unfold Part.channelStep
  repeat' split
  · exact p.moves_giveBack _ _ _
  · exact p.moves_selectLine _
  · exact .refl p

theorem Part.moves_stepChannels (p : Part) : Part.Moves en p p.stepChannels :=
  (((p.moves_channelStep 3).trans (Part.moves_channelStep _ 2)).trans (Part.moves_channelStep _ 1)).trans
    (Part.moves_channelStep _ 0)

/-! ### The touch queue and the Tag Block -/

theorem Part.moves_touchTake (p : Part) : Part.Moves en p p.touchTake := by
  unfold Part.touchTake
  repeat' split
  all_goals first
    | exact .refl p
    | exact (p.moves_setQueue _).trans (Part.moves_setTouchWork _ _)

theorem Part.moves_touchRequest (p : Part) (q : Port) (w : Win) (line : Nat) : Part.Moves en p (p.touchRequest q w line) := by
  unfold Part.touchRequest
  split
  · exact Part.moves_copy (fun _ => rfl)
  · exact (p.moves_setQueue _).trans (Part.moves_touchTake _)

theorem Part.moves_makeDeferred (p : Part) (q : Port) : Part.Moves en p (p.makeDeferred q) := by
  unfold Part.makeDeferred
  split
  · exact .refl p
  · split
    · exact .refl p
    · dsimp only
      split
      · exact (Part.moves_copy (e := { p.copy with deferred := p.copy.deferred.set q none }) (fun _ => rfl)).trans
          (Part.moves_touchRequest _ _ _ _)
      · exact Part.moves_copy (fun _ => rfl)

theorem Part.moves_removeLine (p : Part) (w : Win) (line : Nat) : Part.Moves en p (p.removeLine w line) :=
  Part.moves_copy (fun _ => rfl)

theorem Part.moves_tagReadEffect (p : Part) (q : Port) (w : Win) (sv : Service) (word : TagWord) :
    Part.Moves en p (p.tagReadEffect q w sv word) := by
  unfold Part.tagReadEffect
  repeat' split
  all_goals first | exact .refl p | exact p.moves_pinBySeq w | exact p.moves_clearNotices q w

theorem Part.moves_tagRead (p : Part) (q : Port) (w : Win) (word : TagWord) : Part.Moves en p (p.tagRead q w word) := by
  unfold Part.tagRead
  split
  · exact .refl p
  · exact (p.moves_tagReadEffect _ _ _ _).trans (Part.moves_completeAccess _ _ _)

theorem Part.moves_controlWrite (p : Part) (q : Port) (w : Win) (sv : Service) (l : Lanes) (d : Word) :
    Part.Moves en p (p.controlWrite q w sv l d) := by
  unfold Part.controlWrite
  repeat' split
  all_goals first
    | exact p.moves_note _ _ _
    | exact p.moves_explicitRelease w
    | exact p.moves_abandon w
    | exact p.moves_unpin w

theorem Part.moves_tagWrite (p : Part) (q : Port) (w : Win) (word : TagWord) (l : Lanes) (d : Word) :
    Part.Moves en p (p.tagWrite q w word l d) := by
  unfold Part.tagWrite
  split
  · exact .refl p
  · dsimp only
    split
    · exact (p.moves_completeAccess q none).trans (Part.moves_controlWrite _ _ _ _ _ _)
    · exact (p.moves_completeAccess q none).trans (Part.moves_note _ _ _ _)

theorem Part.moves_proceed (p : Part) (q : Port) (a : Access) (c : AccessClass) : Part.Moves en p (p.proceed q a c) := by
  unfold Part.proceed
  repeat' split
  all_goals first
    | exact p.moves_setAccess _ _
    | exact (p.moves_setAccess _ _).trans (Part.moves_touchRequest _ _ _ _)
    | exact p.moves_tagWrite _ _ _ _ _
    | exact p.moves_tagRead _ _ _
    | exact (p.moves_completeAccess _ _).trans (Part.moves_note _ _ _ _)

theorem Part.moves_reclassify (p : Part) (q : Port) : Part.Moves en p (p.reclassify q) := by
  unfold Part.reclassify
  repeat' split
  all_goals first | exact .refl p | exact p.moves_proceed _ _ _

/-! ### Grants and the settling of an event -/

theorem Part.moves_grantTouch (p : Part) : Part.Moves en p p.grantTouch := by
  unfold Part.grantTouch
  split
  · exact .refl p
  · exact .idle rfl rfl rfl rfl rfl rfl id rfl rfl (fun _ => rfl) rfl rfl

theorem Part.moves_grantChannel (p : Part) (c : Chan) : Part.Moves en p (p.grantChannel c) := by
  unfold Part.grantChannel
  split
  · exact .refl p
  · exact .idle rfl rfl rfl rfl rfl rfl (fun _ => Nat.zero_le _) rfl rfl (fun _ => rfl) rfl rfl

theorem Part.moves_grantEffect (p : Part) (q : Port) (a : Access) (m : MemClass) : Part.Moves en p (p.grantEffect q a m) := by
  unfold Part.grantEffect
  split
  · exact p.moves_note _ _ _
  · split
    · rename_i sv hsv
      exact Part.moves_setService_flags (sv := sv) hsv rfl rfl rfl rfl rfl rfl
    · exact .refl p
  · exact .refl p

theorem Part.moves_grantPort (p : Part) (q : Port) (a : Access) (m : MemClass) : Part.Moves en p (p.grantPort q a m) := by
  refine ((p.moves_grantEffect q a m).trans (Part.moves_setAccess _ q { a with phase := .granted m })).trans ?_
  refine .idle rfl rfl rfl rfl rfl rfl (fun _ => ?_) rfl rfl (fun _ => rfl) rfl rfl
  simp only [Part.grantPort]
  split <;> omega

theorem Part.moves_chooseAtOnce (p : Part) (before : Bool) (c : Chan) : Part.Moves en p (p.chooseAtOnce before c) := by
  unfold Part.chooseAtOnce
  split
  · exact .refl p
  · exact p.moves_grantChannel c

theorem Part.moves_takeHead (p : Part) (c : Chan) (e : WaitEntry) (rest : List WaitEntry) :
    Part.Moves en p (p.takeHead c e rest) := by
  have h1 := (p.moves_setWaiting (en := en) rest).trans (Part.moves_setChannelWork _ c (.serving e.window e.job none))
  unfold Part.takeHead
  dsimp only
  split
  · exact h1.trans (Part.moves_testJob _ _)
  · exact h1.trans (Part.moves_selectLine _ _)

theorem Part.moves_takeJobs (fuel : Nat) (p : Part) : Part.Moves en p (Part.takeJobs fuel p) := by
  induction fuel generalizing p with
  | zero => exact .refl p
  | succ n ih =>
    unfold Part.takeJobs
    split
    · exact ((p.moves_takeHead _ _ _).trans (Part.moves_chooseAtOnce _ _ _)).trans (ih _)
    · exact .refl p

theorem Part.moves_withdraw (p : Part) (q : Port) (a : Access) : Part.Moves en p (p.withdraw q a) := p.moves_setAccess q _

theorem Part.moves_choose (fuel : Nat) (p : Part) : Part.Moves en p (p.choose fuel).1 := by
  induction fuel generalizing p with
  | zero => exact .refl p
  | succ n ih =>
    unfold Part.choose
    repeat' split
    all_goals first
      | exact .refl p
      | exact p.moves_grantTouch
      | exact p.moves_grantChannel _
      | exact p.moves_grantPort _ _ _
      | exact (p.moves_withdraw _ _).trans (ih _)

theorem Part.moves_goOn (l : List (Port × Access × AccessClass)) (p : Part) : Part.Moves en p (p.goOn l) := by
  induction l generalizing p with
  | nil => exact .refl p
  | cons x rest ih => exact (p.moves_proceed x.1 x.2.1 x.2.2).trans (ih _)

theorem Part.moves_round (p : Part) : Part.Moves en p p.round :=
  ((((((p.moves_stepChannels).trans (Part.moves_takeJobs takeFuel _)).trans (Part.moves_touchTake _)).trans
    (Part.moves_makeDeferred _ .a)).trans (Part.moves_makeDeferred _ .b)).trans (Part.moves_reclassify _ .a)).trans
    (Part.moves_reclassify _ .b)

theorem Part.moves_offerIn (fuel : Nat) (p : Part) : Part.Moves en p (Part.offerIn fuel p) := by
  induction fuel generalizing p with
  | zero => exact .refl p
  | succ n ih =>
    unfold Part.offerIn
    dsimp only
    repeat' split
    · exact p.moves_choose 3
    · exact ((((p.moves_choose 3).trans (Part.moves_goOn _ _)).trans (Part.moves_round _)).trans (Part.moves_round _)).trans
        (ih _)
    · exact .refl p

theorem Part.moves_offer (p : Part) : Part.Moves en p p.offer := p.moves_offerIn 3

theorem Part.moves_settle (p : Part) : Part.Moves en p p.settle :=
  ((p.moves_round).trans (Part.moves_round _)).trans (Part.moves_offer _)

end Sys2Proof.Machine
end

