-- ==== Sys2Proof/Laws/Settle.lean ====
section
/-!
SUPPORT. How an event settles where no other work can begin: it is the offer of the memory port and nothing else; and
what that offer does with the port busy, with nothing requesting it, and with one port requesting it.
-/

namespace Sys2Proof.Machine

/-- An empty set of lines has no lowest line. -/
theorem lowestLine?_none : lowestLine? (0#64) = none := by decide

theorem Part.channelStep_rest {p : Part} {c : Chan} (h : p.channelHolds c = true) : p.channelStep c = p := by
  unfold Part.channelStep
  split
  · rename_i w job hw
    simp only [Part.channelHolds, hw, Bool.and_eq_true, Bool.not_eq_true'] at h
    rw [h.1]
    simp only [Bool.false_eq_true, if_false, Part.selectLine, hw]
    split
    · rename_i sv hsv
      simp only [hsv, decide_eq_true_eq] at h
      simp only [lessLines, h.2, lowestLine?_none]
    · rfl
  · rfl

theorem mem_allChannels (c : Chan) : c ∈ allChannels := by
  revert c
  decide

/-- What a Copy Engine at rest is, part by part. -/
theorem Part.copyAtRest_iff {p : Part} : p.copyAtRest = true ↔ (∀ c, p.channelHolds c = true) ∧
    (p.freeChannel? = none ∨ p.copy.waiting = []) ∧
    (p.copy.touch.work ≠ .idle ∨ ∀ e ∈ p.copy.queue, e.inService = false → lineIn (p.inCopyLines e.window) e.line = true) ∧
    ∀ q, p.deferredHolds q = true := by
  have hq : (∀ q, p.deferredHolds q = true) ↔ p.deferredHolds .a = true ∧ p.deferredHolds .b = true :=
    ⟨fun h => ⟨h .a, h .b⟩, fun h q => by cases q; exacts [h.1, h.2]⟩
  have he : ∀ e : TouchEntry, (e.inService || lineIn (p.inCopyLines e.window) e.line) = true ↔
      (e.inService = false → lineIn (p.inCopyLines e.window) e.line = true) := by
    intro e
    cases e.inService <;> simp
  simp only [Part.copyAtRest, Bool.and_eq_true, Bool.or_eq_true, List.all_eq_true, decide_eq_true_eq,
    Option.isNone_iff_eq_none, List.isEmpty_iff, hq, he]
  constructor
  · rintro ⟨⟨⟨⟨h1, h2⟩, h3⟩, h4⟩, h5⟩
    exact ⟨fun c => h1 c (mem_allChannels c), h2, h3, h4, h5⟩
  · rintro ⟨h1, h2, h3, h4, h5⟩
    exact ⟨⟨⟨⟨fun c _ => h1 c, h2⟩, h3⟩, h4⟩, h5⟩

theorem Part.stepChannels_rest {p : Part} (h : p.copyAtRest = true) : p.stepChannels = p := by
  have hc : ∀ c, p.channelStep c = p := fun c => Part.channelStep_rest ((Part.copyAtRest_iff.mp h).1 c)
  simp only [Part.stepChannels, hc]

theorem Part.takeJobs_rest {p : Part} (h : p.copyAtRest = true) (n : Nat) : Part.takeJobs n p = p := by
  cases n with
  | zero => rfl
  | succ n =>
    unfold Part.takeJobs
    rcases (Part.copyAtRest_iff.mp h).2.1 with h1 | h1 <;> simp [h1]

theorem Part.touchTake_rest {p : Part} (h : p.copyAtRest = true) : p.touchTake = p := by
  unfold Part.touchTake
  rcases (Part.copyAtRest_iff.mp h).2.2.1 with h1 | h1
  · split
    · exact absurd ‹_› h1
    · rfl
  · have hn : p.copy.queue.find? (fun e => !e.inService && !lineIn (p.inCopyLines e.window) e.line) = none := by
      rw [List.find?_eq_none]
      intro e he
      have := h1 e he
      cases hs : e.inService <;> simp [hs, this]
    rw [hn]
    split <;> rfl

theorem Part.makeDeferred_rest {p : Part} (h : p.copyAtRest = true) (q : Port) : p.makeDeferred q = p := by
  have hd := (Part.copyAtRest_iff.mp h).2.2.2 q
  simp only [Part.deferredHolds, Bool.or_eq_true, Option.isNone_iff_eq_none] at hd
  unfold Part.makeDeferred
  split
  · rfl
  · rename_i w line hw
    rw [if_pos]
    rcases hd with (hd | hd) | hd
    · rw [hw] at hd
      cases hd
    · simp [hd]
    · simp [hd]

theorem Part.reclassify_rest {p : Part} {q : Port} (h : p.stallHolds q = true) : p.reclassify q = p := by
  unfold Part.reclassify
  unfold Part.stallHolds at h
  split
  · rfl
  · split
    · simp_all
    · rfl

/-- At rest, a round of work changes nothing. -/
theorem Part.round_rest {p : Part} (h : p.atRest = true) : p.round = p := by
  simp only [Part.atRest, Bool.and_eq_true] at h
  simp only [Part.round, Part.stepChannels_rest h.1.1, Part.takeJobs_rest h.1.1, Part.touchTake_rest h.1.1,
    Part.makeDeferred_rest h.1.1, Part.reclassify_rest h.1.2, Part.reclassify_rest h.2]

/-- At rest, an event settles by the offer of the memory port alone. -/
theorem Part.settle_rest {p : Part} (h : p.atRest = true) : p.settle = p.offer := by
  simp only [Part.settle, Part.round_rest h]

/-- The offer, its first choice unfolded. -/
theorem Part.offer_eq (p : Part) : p.offer =
    if p.arbiter.access = none ∧ p.softReset ≠ .draining then
      (if (p.choose 3).2.isEmpty then (p.choose 3).1
       else Part.offerIn 2 ((p.choose 3).1.goOn (p.choose 3).2).round.round)
    else p := rfl

/-- A busy memory port is not offered (R139). -/
theorem Part.offer_busy {p : Part} (h : p.arbiter.access.isSome = true) : p.offer = p := by
  rw [Part.offer_eq, if_neg]
  rintro ⟨h1, -⟩
  simp [h1] at h

theorem Part.rotated_none {p : Part} (h : ∀ c, p.channelRequests c = false) : p.rotated? = none := by
  simp [Part.rotated?, h]

/-- The memory port is free and one port alone requests it, with a class that needs memory: it is granted (R139, R140,
R142). -/
theorem Part.offer_onlyPort {p : Part} {q : Port} {a : Access} {m : MemClass} (free : p.arbiter.access = none)
    (soft : p.softReset ≠ .draining) (touch : p.touchRequests = false) (channels : ∀ c, p.channelRequests c = false)
    (own : p.portRequests q = true) (other : p.portRequests q.other = false) (acc : p.accessOf q = some a)
    (cls : p.classify q a.addr a.write = .memory m) : p.offer = p.grantPort q a m := by
  have hsel : p.selectedPort? = some q := by
    cases q <;> simp only [Port.other] at other <;> simp [Part.selectedPort?, own, other]
  have hc : p.choose 3 = (p.grantPort q a m, []) := by
    unfold Part.choose
    simp [touch, Part.rotated_none channels, hsel, acc, cls]
  rw [Part.offer_eq, if_pos ⟨free, soft⟩, hc]
  rfl

/-- Nothing requests the memory port: it stays as it is (R139). -/
theorem Part.offer_noRequest {p : Part} (touch : p.touchRequests = false) (channels : ∀ c, p.channelRequests c = false)
    (a : p.portRequests .a = false) (b : p.portRequests .b = false) : p.offer = p := by
  have hc : p.choose 3 = (p, []) := by
    unfold Part.choose
    simp [touch, Part.rotated_none channels, Part.selectedPort?, a, b]
  rw [Part.offer_eq, hc]
  split <;> rfl

/-- A memory port that is free with nothing requesting it. -/
theorem Part.memoryFree_iff {p : Part} : p.memoryFree = true ↔ p.arbiter.access = none ∧ p.touchRequests = false ∧
    (∀ c, p.channelRequests c = false) ∧ p.portRequests .a = false ∧ p.portRequests .b = false := by
  have hc : allChannels.any (fun c => (p.channel c).work.lineCopy?.isSome) = false ↔
      ∀ c, p.channelRequests c = false := by
    simp only [List.any_eq_false, Part.channelRequests, Bool.not_eq_true]
    exact ⟨fun h c => h c (mem_allChannels c), fun h c _ => h c⟩
  simp only [Part.memoryFree, Part.portContended, Bool.and_eq_true, Bool.not_eq_true', Bool.or_eq_false_iff,
    Option.isNone_iff_eq_none, hc, List.any_cons, List.any_nil, Part.touchRequests]
  constructor
  · rintro ⟨h1, ⟨⟨-, h3⟩, h4⟩, h5, h6, -⟩
    exact ⟨h1, h3, h4, h5, h6⟩
  · rintro ⟨h1, h3, h4, h5, h6⟩
    exact ⟨h1, ⟨⟨by simp [h1], h3⟩, h4⟩, h5, h6, trivial⟩

/-! ## An arrival whose class needs memory -/

/-- The part with the port's access in place: only the interface of that port differs. -/
theorem Part.setAccess_takeAccess (p : Part) (q : Port) (a b : Access) :
    (p.takeAccess q a).setAccess q b = p.takeAccess q b := by
  cases q <;> rfl

theorem Part.stallEnded_takeAccess (p : Part) (q r : Port) (a : Access) (st : Stall) :
    (p.takeAccess q a).stallEnded r st = p.stallEnded r st := by
  cases st <;> rfl

/-- A part at rest stays at rest as a port takes an access that is in no stall. -/
theorem Part.atRest_takeAccess {p : Part} (h : p.atRest = true) (q : Port) {a : Access}
    (ha : ∀ st n, a.phase ≠ .stalled st n) : (p.takeAccess q a).atRest = true := by
  have hs : ∀ r, p.stallHolds r = true → (p.takeAccess q a).stallHolds r = true := by
    intro r hr
    by_cases hrq : r = q
    · subst hrq
      simp only [Part.stallHolds, Part.accessOf_takeAccess_same]
    · have : (p.takeAccess q a).accessOf r = p.accessOf r := by
        simp [Part.accessOf, Part.takeAccess, PerPort.get_set_ne _ hrq]
      simp only [Part.stallHolds, this, Part.stallEnded_takeAccess]
      exact hr
  simp only [Part.atRest, Bool.and_eq_true] at h ⊢
  exact ⟨⟨h.1.1, hs .a h.1.2⟩, hs .b h.2⟩

theorem Part.classify_takeAccess (p : Part) (q : Port) (a : Access) (r : Port) (x : Addr) (w : Bool) :
    (p.takeAccess q a).classify r x w = p.classify r x w := rfl

/-- An arrival whose class needs memory, in a part at rest: the access requests the memory port, which is then offered. -/
theorem Part.arrive_memory {p : Part} {q : Port} {a : Access} {m : MemClass} (rest : p.atRest = true)
    (soft : p.softReset ≠ .draining) (cls : p.classify q a.addr a.write = .memory m) :
    p.arrive q a = (p.takeAccess q { a with phase := .requesting m }).offer := by
  unfold Part.arrive
  rw [if_neg soft, Part.classify_takeAccess, cls]
  simp only [Part.proceed, Part.setAccess_takeAccess]
  exact Part.settle_rest (Part.atRest_takeAccess rest q (by intro st n; simp))

/-- The same with the memory port free and nothing requesting it: the access is granted (R139). -/
theorem Part.arrive_granted {p : Part} {q : Port} {a : Access} {m : MemClass} (rest : p.atRest = true)
    (free : p.memoryFree = true) (soft : p.softReset ≠ .draining) (cls : p.classify q a.addr a.write = .memory m) :
    p.arrive q a = (p.takeAccess q { a with phase := .requesting m }).grantPort q { a with phase := .requesting m } m := by
  obtain ⟨h1, h2, h3, h4, h5⟩ := Part.memoryFree_iff.mp free
  rw [Part.arrive_memory rest soft cls]
  refine Part.offer_onlyPort h1 soft h2 h3 ?_ ?_ (by simp) cls
  · simp [Part.portRequests]
  · have : (p.takeAccess q { a with phase := .requesting m }).accessOf q.other = p.accessOf q.other := by
      cases q <;> rfl
    simp only [Part.portRequests, this]
    cases q
    · exact h5
    · exact h4

end Sys2Proof.Machine
end

