-- ==== Sys2Proof/Laws/Classify.lean ====
section
/-!
SUPPORT. What the class of an access is, from where its address lies (R28): one lemma a row of the table.
-/

namespace Sys2Proof.Machine

theorem inArea_iff (base : Addr) (length : Nat) (a : Addr) :
    inArea base length a = true ↔ base.toNat ≤ a.toNat ∧ a.toNat < base.toNat + 16 * length := by
  simp [inArea]

/-- An address of no area. -/
theorem Geometry.areaOf_none {g : Geometry} {a : Addr} (h : ∀ k, ¬ g.holds k a) : g.areaOf a = none := by
  have h1 := h .logical
  have h2 := h .bank1
  have h3 := h .bank2
  simp only [Geometry.holds, ← inArea_iff, Bool.not_eq_true] at h1 h2 h3
  simp [Geometry.areaOf, h1, h2, h3]

theorem Geometry.areaOf_logical {g : Geometry} {a : Addr} (h : g.holds .logical a) : g.areaOf a = some .logical := by
  simp only [Geometry.holds, ← inArea_iff] at h
  simp [Geometry.areaOf, h]

/-- An address of a bank 1 or bank 2 area. -/
theorem Geometry.areaOf_bank {g : Geometry} {a : Addr} (h : g.holds .bank1 a ∨ g.holds .bank2 a)
    (n : ¬ g.holds .logical a) : ∃ k, g.areaOf a = some k ∧ k ≠ .logical := by
  simp only [Geometry.holds, ← inArea_iff] at h n
  simp only [Geometry.areaOf, n]
  by_cases h1 : inArea g.bank1Base g.length a = true
  · exact ⟨.bank1, by simp [h1]⟩
  · rcases h with h | h
    · exact absurd h h1
    · exact ⟨.bank2, by simp [h1, h]⟩

/-- A search over the windows that only `w` can end. -/
theorem allWindows_findSome {β : Type} (f : Win → Option β) (w : Win) (h : ∀ v, v ≠ w → f v = none) :
    allWindows.findSome? f = f w := by
  have hn : ∀ l : List Win, l.findSome? f = if w ∈ l then f w else none := by
    intro l
    induction l with
    | nil => rfl
    | cons x l ih =>
      rw [List.findSome?_cons]
      by_cases hx : x = w
      · subst hx
        cases hf : f x with
        | none =>
          simp only [ih, hf]
          simp
        | some b => simp
      · rw [h x hx, ih]
        have : w ≠ x := fun e => hx e.symm
        simp [this]
  rw [hn, if_pos (mem_allWindows w)]

theorem Part.locate_none {p : Part} {a : Addr} (h : p.noneHolds a) : p.locate a = none := by
  unfold Part.locate
  rw [List.findSome?_eq_none_iff]
  intro w _
  cases hs : p.service w with
  | none => rfl
  | some sv => simp [Geometry.areaOf_none (h w sv hs)]

/-- The address of one window alone is located in it. -/
theorem Part.locate_only {p : Part} {w : Win} {sv : Service} {a : Addr} (hs : p.service w = some sv)
    (other : p.noOtherHolds w a) : p.locate a = (sv.geometry.areaOf a).map (fun k => (w, k)) := by
  unfold Part.locate
  rw [allWindows_findSome _ w]
  · simp only [hs]
  · intro v hv
    cases hs' : p.service v with
    | none => rfl
    | some sv' => simp [Geometry.areaOf_none (other v sv' hv hs')]

theorem Part.classify_passThrough {p : Part} {q : Port} {a : Addr} {wr : Bool}
    (h : p.opState = .standby ∨ p.noneHolds a) : p.classify q a wr = .memory .passThrough := by
  unfold Part.classify
  rcases h with h | h
  · simp [h]
  · simp [Part.locate_none h]

theorem Part.classify_logical {p : Part} {q : Port} {w : Win} {sv : Service} {a : Addr} {wr : Bool}
    (h : p.logicalOf w sv a) : p.classify q a wr = classifyLogical sv (p.liveOf w) w q a wr := by
  obtain ⟨h1, h2, h3, h4⟩ := h
  simp [Part.classify, h1, Part.locate_only h2 h4, Geometry.areaOf_logical h3, h2]

theorem Part.classify_bank {p : Part} {q : Port} {w : Win} {sv : Service} {a : Addr} {wr : Bool}
    (run : p.opState ≠ .standby) (hs : p.service w = some sv)
    (h : sv.geometry.holds .bank1 a ∨ sv.geometry.holds .bank2 a) (n : ¬ sv.geometry.holds .logical a)
    (other : p.noOtherHolds w a) :
    p.classify q a wr = if wr then .intrusionWrite w else .memory (.intrusionRead w) := by
  obtain ⟨k, hk, hl⟩ := Geometry.areaOf_bank h n
  simp [Part.classify, run, Part.locate_only hs other, hk, hs, hl]

/-- An address that is no tag word takes the steps after the tag step. -/
theorem Part.noTag_none {p : Part} {w : Win} {sv : Service} {a : Addr} (h : p.noTagWord w sv a) :
    (if (p.liveOf w).tags then tagWordAt (sv.geometry.offset a) else none) = none := by
  rcases h with h | h
  · simp [h]
  · split
    · unfold tagWordAt
      split <;> first | omega | rfl
    · rfl

theorem classifyLogical_retiring {sv : Service} {live : Descriptor} {w : Win} {q : Port} {a : Addr} {wr : Bool}
    (h : sv.retiring = true) : classifyLogical sv live w q a wr = .stall (.retiring w) := by
  simp [classifyLogical, h]

theorem classifyLogical_releasePending {sv : Service} {live : Descriptor} {w : Win} {q : Port} {a : Addr} {wr : Bool}
    (h : sv.retiring = false) (hp : sv.geometry.producer = q) (hr : sv.releasePending = true) :
    classifyLogical sv live w q a wr = .stall (.releasePending w) := by
  simp [classifyLogical, h, hp, hr]

theorem classifyLogical_consumer {sv : Service} {live : Descriptor} {w : Win} {q : Port} {a : Addr} {wr : Bool}
    (h : sv.retiring = false) (hp : sv.geometry.producer ≠ q)
    (ht : (if live.tags then tagWordAt (sv.geometry.offset a) else none) = none) :
    classifyLogical sv live w q a wr = if wr then .consumerWrite w else .memory (.consumerRead w) := by
  simp [classifyLogical, h, hp, ht]

theorem classifyLogical_producer {sv : Service} {live : Descriptor} {w : Win} {q : Port} {a : Addr} {wr : Bool}
    (h : sv.retiring = false) (hp : sv.geometry.producer = q) (hr : sv.releasePending = false)
    (ht : (if live.tags then tagWordAt (sv.geometry.offset a) else none) = none) :
    classifyLogical sv live w q a wr =
      if wr then
        (if lineIn sv.backStale (sv.geometry.lineOf a) then .stall (.touchWait w (sv.geometry.lineOf a))
         else .memory (.producerWrite w (decide (live.writeMask ≠ 0xFFFF#16))))
      else .memory (.producerRead w) := by
  cases wr <;> simp [classifyLogical, h, hp, hr, ht]

theorem classifyLogical_tag {sv : Service} {live : Descriptor} {w : Win} {q : Port} {a : Addr} {wr : Bool}
    {word : TagWord} (h : sv.retiring = false) (hr : sv.geometry.producer = q → sv.releasePending = false)
    (ht : (if live.tags then tagWordAt (sv.geometry.offset a) else none) = some word) :
    classifyLogical sv live w q a wr = .tag w word := by
  have : (decide (sv.geometry.producer = q) && sv.releasePending) = false := by
    by_cases hp : sv.geometry.producer = q <;> simp [hp, hr]
  simp [classifyLogical, h, this, ht]

/-- The address of a tag word lies in the logical range, at the word's offset. -/
theorem Part.tagAddr_at {p : Part} {q : Port} {w : Win} {sv : Service} {word : TagWord} (h : p.tagOpen q w sv word) :
    p.logicalOf w sv (p.tagAddr w word) ∧ tagWordAt (sv.geometry.offset (p.tagAddr w word)) = some word := by
  obtain ⟨h1, h2, h3, h4, h5, h6, h7, h8⟩ := h
  have hg : p.tagGeometry w = sv.geometry := by simp [Part.tagGeometry, h2]
  have ht : tagOffset word < 4 := by cases word <;> decide
  have hb := sv.geometry.logicalBase.isLt
  have ha : (p.tagAddr w word).toNat = sv.geometry.logicalBase.toNat + tagOffset word := by
    simp only [Part.tagAddr, hg, BitVec.toNat_add, BitVec.toNat_ofNat]
    omega
  refine ⟨⟨h1, h2, ?_, h8⟩, ?_⟩
  · simp only [Geometry.holds, ha]
    omega
  · have : sv.geometry.offset (p.tagAddr w word) = tagOffset word := by
      simp only [Geometry.offset, ha]
      omega
    rw [this]
    cases word <;> rfl

/-- A tag word's access is a tag access (R28, R34). -/
theorem Part.classify_tag {p : Part} {q : Port} {w : Win} {sv : Service} {word : TagWord} {wr : Bool}
    (h : p.tagOpen q w sv word) : p.classify q (p.tagAddr w word) wr = .tag w word := by
  obtain ⟨h1, h2⟩ := Part.tagAddr_at h
  rw [Part.classify_logical h1]
  refine classifyLogical_tag h.2.2.1 h.2.2.2.2.2.2.1 ?_
  rw [if_pos h.2.2.2.1, h2]

end Sys2Proof.Machine
end

