-- ==== Sys2Proof/Laws/Arrive.lean ====
section
/-!
SUPPORT. What an arrival does in a part at rest, for each kind of class: granted at once, waiting for a busy memory
port, held in a window stall, or discarded.
-/

namespace Sys2Proof.Machine

theorem State.present_taken {s : State} {q : Port} (a : Access) (h : s.canPresent q = true) :
    s.present q a = { s with part := s.part.arrive q a } := by
  simp only [State.canPresent, Bool.and_eq_true, Bool.not_eq_true', decide_eq_true_eq] at h
  simp [State.present, h.1.1, h.2]

theorem State.canPresent_soft {s : State} {q : Port} (h : s.canPresent q = true) : s.part.softReset ≠ .draining := by
  simp only [State.canPresent, Bool.and_eq_true, Bool.not_eq_true', decide_eq_true_eq] at h
  exact h.1.2

/-- An access with a strobe that the port can present arrives. -/
theorem exec_accessArrival_taken {q : Port} {addr : Addr} {rd wr : Bool} {lanes : Lanes} {data : Word} {s : State}
    (strobe : (rd || wr) = true) (h : s.canPresent q = true) :
    exec (.accessArrival q addr rd wr lanes data) s =
      .next { s with part := s.part.arrive q (arrivingAccess addr wr lanes data) } := by
  simp only [exec, execAccessArrival, strobe, if_true, State.present_taken _ h]

/-- A bank's word at an offset from the logical base. -/
theorem bankWord_offset (base : Addr) (g : Geometry) (a : Addr) :
    bankWord base (g.lineOf a) (g.wordOf a) = base + BitVec.ofNat 20 (g.offset a) := by
  simp [bankWord, Geometry.lineOf, Geometry.wordOf, Nat.div_add_mod]

theorem Part.takeAccess_eq (p : Part) (q : Port) (a : Access) : p.takeAccess q a = p.withPort q (.holding a) := rfl

theorem Part.withPort_withPort (p : Part) (q : Port) (i j : PortIf) : (p.withPort q i).withPort q j = p.withPort q j := by
  cases q <;> rfl

/-- A grant's effect on a window's record and notices does not look at the ports. -/
theorem Part.grantEffect_withPort (p : Part) (q r : Port) (i : PortIf) (a : Access) (m : MemClass) :
    (p.withPort r i).grantEffect q a m = (p.grantEffect q a m).withPort r i := by
  cases m <;> try rfl
  case producerWrite w b =>
    unfold Part.grantEffect
    show (match p.service w with | some sv => _ | none => _) = Part.withPort (match p.service w with | some sv => _ | none => _) r i
    cases p.service w <;> rfl

/-- An arrival that is granted at once: what the grant changes, block by block (R30, R141, R142). -/
theorem Part.arrive_granted_eq {p : Part} {q : Port} {a : Access} {m : MemClass} (rest : p.atRest = true)
    (free : p.memoryFree = true) (soft : p.softReset ≠ .draining) (cls : p.classify q a.addr a.write = .memory m) :
    p.arrive q a =
      { (p.grantEffect q a m).withPort q (.holding { a with phase := .granted m }) with
        arbiter := p.arbiter.grantedTo q (p.portAccess q a m) } := by
  have he : ∀ x : Part, x.setAccess q { a with phase := .granted m } =
      x.withPort q { x.ports.get q with access := some { a with phase := .granted m } } := fun _ => rfl
  have ha : (p.grantEffect q a m).arbiter = p.arbiter := by
    cases m <;> try rfl
    case producerWrite w b =>
      simp only [Part.grantEffect]
      cases p.service w <;> rfl
  have hx : (p.takeAccess q { a with phase := .requesting m }).grantEffect q { a with phase := .requesting m } m =
      (p.grantEffect q a m).withPort q (.holding { a with phase := .requesting m }) := by
    rw [Part.takeAccess_eq, Part.grantEffect_withPort]
    rfl
  have hp : ((p.grantEffect q a m).withPort q (.holding { a with phase := .requesting m })).ports.get q =
      .holding { a with phase := .requesting m } := by
    cases q <;> rfl
  rw [Part.arrive_granted rest free soft cls, Part.grantPort, hx]
  simp only [he, hp, Part.withPort_withPort]
  have hq : (p.takeAccess q { a with phase := .requesting m }).portAccess q { a with phase := .requesting m } m =
      p.portAccess q a m := rfl
  rw [hq]
  have hm : min (p.arbiter.portRun + 1) 15 = if p.arbiter.portRun < 15 then p.arbiter.portRun + 1 else 15 := by split <;> omega
  simp only [Part.withPort, PortIf.holding, Arbiter.grantedTo, ha, Part.takeAccess_arbiter, hm]
  rfl

/-- An arrival whose class needs memory waits while the memory port is busy (R139). -/
theorem Part.arrive_waits {p : Part} {q : Port} {a : Access} {m : MemClass} (rest : p.atRest = true)
    (busy : p.arbiter.access.isSome = true) (soft : p.softReset ≠ .draining)
    (cls : p.classify q a.addr a.write = .memory m) :
    p.arrive q a = p.withPort q (.holding { a with phase := .requesting m }) := by
  rw [Part.arrive_memory rest soft cls]
  exact Part.offer_busy (by simpa using busy)

/-- With no request waiting behind a free memory port, the offer of the port changes nothing. -/
theorem Part.offer_idle {p : Part} (h : p.noIdleRequest = true) : p.offer = p := by
  by_cases hb : p.arbiter.access.isSome = true
  · exact Part.offer_busy hb
  · have hf : p.memoryFree = true := by
      simp only [Part.noIdleRequest, hb, Bool.false_or] at h
      simp only [Part.memoryFree, h, Bool.and_true]
      simpa using hb
    obtain ⟨-, h2, h3, h4, h5⟩ := Part.memoryFree_iff.mp hf
    exact Part.offer_noRequest h2 h3 h4 h5

/-- A part at rest with no request waiting behind a free memory port settles to itself. -/
theorem Part.settle_idle {p : Part} (rest : p.atRest = true) (h : p.noIdleRequest = true) : p.settle = p := by
  rw [Part.settle_rest rest, Part.offer_idle h]

/-- A port that makes no request leaves the requests as they are. -/
theorem Part.noIdleRequest_withPort {p : Part} {q : Port} {i : PortIf} (h : p.noIdleRequest = true)
    (hi : ∀ a m, i.access = some a → a.phase ≠ .requesting m) : (p.withPort q i).noIdleRequest = true := by
  have hreq : (match i.access with
      | some a => (match a.phase with | .requesting _ => true | _ => false)
      | none => false) = false := by
    cases hx : i.access with
    | none => rfl
    | some a =>
      have := fun m => hi a m hx
      cases hph : a.phase with
      | requesting m => exact absurd hph (this m)
      | _ => simp only [hph]
  simp only [Part.noIdleRequest, Part.portContended, Bool.or_eq_true, Bool.not_eq_true', Bool.or_eq_false_iff,
    List.any_cons, List.any_nil, Bool.or_false] at h ⊢
  rcases h with h | ⟨⟨⟨h1, h2⟩, h3⟩, h4, h5⟩
  · exact .inl h
  · refine .inr ⟨⟨⟨h1, h2⟩, h3⟩, ?_⟩
    cases q
    · exact ⟨hreq, h5⟩
    · exact ⟨h4, hreq⟩

/-- A part at rest stays at rest with another interface whose stall, if any, holds. -/
theorem Part.atRest_withPort {p : Part} (h : p.atRest = true) (q : Port) {i : PortIf}
    (hi : ∀ a st n, i.access = some a → a.phase = .stalled st n → p.stallEnded q st = false) :
    (p.withPort q i).atRest = true := by
  have hend : ∀ r st, (p.withPort q i).stallEnded r st = p.stallEnded r st := by
    intro r st
    cases st <;> rfl
  have own : (p.withPort q i).stallHolds q = true := by
    have hacc : (p.withPort q i).accessOf q = i.access := by cases q <;> rfl
    unfold Part.stallHolds
    rw [hacc]
    cases hx : i.access with
    | none => rfl
    | some a =>
      simp only
      cases hph : a.phase with
      | stalled st n => simp [hend, hi a st n hx hph]
      | _ => rfl
  have oth : ∀ r, r ≠ q → p.stallHolds r = true → (p.withPort q i).stallHolds r = true := by
    intro r hr hs
    have : (p.withPort q i).accessOf r = p.accessOf r := by
      simp [Part.accessOf, Part.withPort, PerPort.get_set_ne _ hr]
    simp only [Part.stallHolds, this, hend]
    exact hs
  simp only [Part.atRest, Bool.and_eq_true] at h ⊢
  refine ⟨⟨h.1.1, ?_⟩, ?_⟩
  · by_cases hq : Port.a = q
    · subst hq
      exact own
    · exact oth _ hq h.1.2
  · by_cases hq : Port.b = q
    · subst hq
      exact own
    · exact oth _ hq h.2

/-- An arrival that a window's state holds, other than in a touch wait, is held from a fresh start time (R35, R36). -/
theorem Part.arrive_held {p : Part} {q : Port} {a : Access} {st : Stall} (rest : p.atRest = true)
    (idle : p.noIdleRequest = true) (soft : p.softReset ≠ .draining) (cls : p.classify q a.addr a.write = .stall st)
    (touch : ∀ w l, st ≠ .touchWait w l) (holds : p.stallEnded q st = false) :
    p.arrive q a = p.withPort q (.holding { a with phase := .stalled st 0 }) := by
  unfold Part.arrive
  rw [if_neg soft, Part.classify_takeAccess, cls]
  have : (p.takeAccess q a).proceed q a (.stall st) = p.withPort q (.holding { a with phase := .stalled st 0 }) := by
    cases st with
    | touchWait w l => exact absurd rfl (touch w l)
    | _ => exact Part.setAccess_takeAccess p q a _
  rw [this]
  refine Part.settle_idle (Part.atRest_withPort rest q ?_) (Part.noIdleRequest_withPort idle ?_)
  · intro b st' n hb hph
    simp only [PortIf.holding, Option.some.injEq] at hb
    subst hb
    simp only [Phase.stalled.injEq] at hph
    rw [← hph.1]
    exact holds
  · intro b m hb
    simp only [PortIf.holding, Option.some.injEq] at hb
    subst hb
    simp

/-- A write that its class discards completes at once, with VIOLATION noted (R33, R38). -/
theorem Part.arrive_discarded {p : Part} {q : Port} {a : Access} {w : Win} (rest : p.atRest = true)
    (idle : p.noIdleRequest = true) (soft : p.softReset ≠ .draining)
    (cls : p.classify q a.addr a.write = .consumerWrite w ∨ p.classify q a.addr a.write = .intrusionWrite w) :
    p.arrive q a = (p.withPort q (.answered none)).note q w .violation := by
  have hc : (p.takeAccess q a).completeAccess q none = p.withPort q (.answered none) := by
    cases q <;> rfl
  have hp : (p.takeAccess q a).proceed q a (p.classify q a.addr a.write) =
      (p.withPort q (.answered none)).note q w .violation := by
    rcases cls with h | h <;> rw [h] <;> simp only [Part.proceed, hc]
  have h1 : (p.withPort q (.answered none)).atRest = true := Part.atRest_withPort rest q (by simp [PortIf.answered])
  have h2 : (p.withPort q (.answered none)).noIdleRequest = true := Part.noIdleRequest_withPort idle (by simp [PortIf.answered])
  unfold Part.arrive
  rw [if_neg soft, Part.classify_takeAccess, hp]
  exact Part.settle_idle h1 h2

end Sys2Proof.Machine
end

