-- ==== Sys2Proof/Laws/Events.lean ====
section
/-!
SUPPORT. The moves of the part through a memory access's completion, through the end of a stall and through a boundary:
the shared operations of the events, each once.
-/

namespace Sys2Proof.Machine

variable {en : Bool}

/-! ## Completions -/

theorem Part.moves_lineLeaves (p : Part) (w : Win) (cp : LineCopy) : Part.Moves en p (p.lineLeaves w cp) := by
  unfold Part.lineLeaves
  split
  · exact .refl p
  · rename_i sv hsv
    refine Part.moves_setService (sv := sv) hsv rfl rfl rfl rfl id (fun k _ => ?_)
    by_cases hk : k = sv.geometry.bankAt cp.target
    · subst hk
      simp only [PerBank.get_set_same]
      exact linesWithin_drop _ _
    · simp only [PerBank.get_set_ne _ hk]
      exact linesWithin_refl _

theorem Part.moves_channelLineEnd (p : Part) (c : Chan) : Part.Moves en p (p.channelLineEnd c) := by
  unfold Part.channelLineEnd
  split
  · exact (((p.moves_setChannelWork _ _).trans (Part.moves_lineLeaves _ _ _)).trans (Part.moves_removeLine _ _ _)).trans
      (Part.moves_testJob _ _)
  · exact p.moves_setChannelWork _ _
  · exact .refl p

theorem Part.moves_touchLineEnd (p : Part) : Part.Moves en p p.touchLineEnd := by
  unfold Part.touchLineEnd
  split
  · exact ((((p.moves_setTouchWork _).trans (Part.moves_lineLeaves _ _ _)).trans (Part.moves_setQueue _ _)).trans
      (Part.moves_removeLine _ _ _)).trans (Part.moves_testJob _ _)
  · exact p.moves_setTouchWork _
  · exact .refl p

theorem Part.moves_channelWordDone (p : Part) (c : Chan) (write : Bool) (word : Word) :
    Part.Moves en p (p.channelWordDone c write word) := by
  unfold Part.channelWordDone
  dsimp only
  repeat' split
  all_goals first
    | exact .refl p
    | exact p.moves_channelLineEnd _
    | exact p.moves_setChannelWork _ _
    | exact Part.moves_setChannel rfl

theorem Part.moves_touchWordDone (p : Part) (write : Bool) (word : Word) : Part.Moves en p (p.touchWordDone write word) := by
  unfold Part.touchWordDone
  dsimp only
  repeat' split
  all_goals first
    | exact .refl p
    | exact p.moves_touchLineEnd
    | exact p.moves_setTouchWork _
    | exact Part.moves_copy (fun _ => rfl)

theorem Part.moves_deliver (p : Part) (m : MemAccess) (word : Word) : Part.Moves en p (p.deliver m word) := by
  unfold Part.deliver
  split
  · exact p.moves_completeAccess _ _
  · exact p.moves_touchWordDone _ _
  · exact p.moves_channelWordDone _ _ _

/-- The port is free again. -/
theorem Part.moves_portFree (p : Part) : Part.Moves en p { p with arbiter := { p.arbiter with access := none } } :=
  .idle rfl rfl rfl rfl rfl rfl id rfl rfl (fun _ => rfl) rfl rfl

theorem Part.moves_finishAccess (p : Part) (m : MemAccess) (word : Word) : Part.Moves en p (p.finishAccess m word) :=
  ((((p.moves_deliver m word).trans (Part.moves_round _)).trans (Part.moves_round _)).trans
    (Part.moves_portFree _)).trans (Part.moves_offer _)

theorem Part.moves_secondHalf (p : Part) (m : MemAccess) (mask word : Word) :
    Part.Moves en p (p.secondHalf m mask word) := by
  unfold Part.secondHalf
  repeat' split
  all_goals first | exact .refl p | exact .idle rfl rfl rfl rfl rfl rfl id rfl rfl (fun _ => rfl) rfl rfl

theorem Part.moves_deliverLast (p : Part) (m : MemAccess) (word : Word) : Part.Moves en p (p.deliverLast m word) := by
  unfold Part.deliverLast
  repeat' split
  all_goals first
    | exact .refl p
    | exact p.moves_completeAccess _ _
    | exact Part.moves_copy (fun _ => rfl)
    | exact Part.moves_setChannel rfl

/-! ## Stalls and arrivals -/

theorem Part.moves_advanceStalls (p : Part) : Part.Moves en p p.advanceStalls :=
  .idle rfl rfl rfl rfl rfl rfl id rfl rfl (fun _ => rfl) rfl rfl

theorem Part.moves_dropTouch (p : Part) (q : Port) : Part.Moves en p (p.dropTouch q) := Part.moves_copy (fun _ => rfl)

theorem Part.moves_timeout (p : Part) (q : Port) : Part.Moves en p (p.timeout q) := by
  unfold Part.timeout
  split
  · rename_i st a _ _
    have h1 := (p.moves_completeAccess (en := en) q (if a.write then none else some 0xFFFF#16)).trans
      (Part.moves_note _ q st.window .stallTimeout)
    dsimp only
    split
    · exact h1.trans (Part.moves_dropTouch _ _)
    · exact h1
  · exact .refl p

theorem Part.moves_timeouts (p : Part) : Part.Moves en p p.timeouts := (p.moves_timeout .a).trans (Part.moves_timeout _ .b)

theorem Part.moves_arrive (p : Part) (q : Port) (a : Access) : Part.Moves en p (p.arrive q a) := by
  unfold Part.arrive
  split
  · exact p.moves_takeAccess q a
  · exact ((p.moves_takeAccess q a).trans (Part.moves_proceed _ _ _ _)).trans (Part.moves_settle _)

/-! ## A boundary -/

theorem Part.moves_boundaryRelease (p : Part) (w : Win) : Part.Moves en p (p.boundaryRelease w) := by
  unfold Part.boundaryRelease
  split
  · exact .refl p
  · rename_i sv hsv
    repeat' split
    · exact .refl p
    · exact (p.moves_note _ _ _).trans (Part.moves_setService_flags (sv := sv) hsv rfl rfl rfl rfl rfl rfl)
    · exact .refl p
    · rename_i hc _
      refine Part.moves_release (fun sv' h => ?_)
      rw [hsv] at h
      cases h
      simp only [Bool.or_eq_true, Bool.not_eq_true', not_or, Bool.not_eq_false] at hc
      exact Part.caughtUp_fresh hc.2

theorem Part.moves_boundaryPin (p : Part) (w : Win) : Part.Moves en p (p.boundaryPin w) := by
  unfold Part.boundaryPin
  split
  · exact .refl p
  · rename_i sv hsv
    repeat' split
    · exact .refl p
    · exact (p.moves_endPin w).trans (Part.moves_note _ _ _ _)
    · exact Part.moves_setService_flags (sv := sv) hsv rfl rfl rfl rfl rfl rfl

theorem Part.moves_ageStep (p : Part) (w : Win) : Part.Moves en p (p.ageStep w) :=
  Part.moves_setRecord (.single (.age _))

theorem Part.moves_boundaryFlip (p : Part) (w : Win) : Part.Moves en p (p.boundaryFlip w) := by
  unfold Part.boundaryFlip
  split
  · exact .refl p
  · rename_i sv hsv
    repeat' split
    · exact (Part.moves_setService_flags (sv := sv) (sv' := { sv with deferred := true }) hsv rfl rfl rfl rfl rfl rfl).trans
        (Part.moves_ageStep _ _)
    · exact p.moves_flip _ _
    · exact p.moves_ageStep _

theorem Part.moves_handleBoundary (p : Part) (w : Win) : Part.Moves en p (p.handleBoundary w) :=
  ((p.moves_boundaryRelease w).trans (Part.moves_boundaryPin _ _)).trans (Part.moves_boundaryFlip _ _)

theorem Part.moves_endPinByApply (p : Part) (w : Win) : Part.Moves en p (p.endPinByApply w) := by
  unfold Part.endPinByApply
  split
  · exact p.moves_endPin w
  · exact .refl p

/-- One window at a boundary; only an apply enables. -/
theorem Part.moves_windowAtBoundary (p : Part) (applied : Bool) (w : Win) :
    Part.Moves applied p (p.windowAtBoundary applied w) := by
  unfold Part.windowAtBoundary
  repeat' split
  all_goals first
    | exact .refl p
    | (rename_i h; simp only [Bool.and_eq_true] at h; exact h.1 ▸ p.moves_enable w)
    | exact p.moves_retire w
    | exact p.moves_handleBoundary w
    | exact (p.moves_endPinByApply w).trans (Part.moves_handleBoundary _ _)

/-- The same work for one window after another. -/
theorem Part.moves_foldl {f : Part → Win → Part} (hf : ∀ p w, Part.Moves en p (f p w)) (l : List Win) (p : Part) :
    Part.Moves en p (l.foldl f p) := by
  induction l generalizing p with
  | nil => exact .refl p
  | cons w rest ih => exact (hf p w).trans (ih (f p w))

/-- The boundary moves the part that its apply attempt left; it enables windows only where that attempt applied. -/
theorem Part.moves_deliverBoundary {p : Part} (h : ∀ w : Win, p.applyAttempt.2.getLsbD w.val = true → en = true) :
    Part.Moves en p.applyAttempt.1 p.deliverBoundary := by
  unfold Part.deliverBoundary
  dsimp only
  generalize p.applyAttempt = r at h
  refine Part.moves_foldl (f := fun q w => q.windowAtBoundary (r.2.getLsbD w.val) w) (fun q w => ?_) allWindows r.1
  have hm := q.moves_windowAtBoundary (r.2.getLsbD w.val) w
  cases hr : r.2.getLsbD w.val
  · rw [hr] at hm
    exact hm.mono
  · rw [hr] at hm
    rw [h w hr]
    exact hm

/-- The outcomes of an apply attempt (R129 to R131). -/
theorem Part.applyAttempt_cases (p : Part) :
    p.applyAttempt = (p, 0#16) ∨ p.applyAttempt = (p.applyStage, p.staging.changed) ∨
      p.applyAttempt = (p.rejectStage, 0#16) := by
  unfold Part.applyAttempt
  repeat' split
  all_goals simp

/-- An apply attempt leaves the records, the timer, the arbiter, the operating state and the ports. -/
theorem Part.applyAttempt_keeps (p : Part) :
    p.applyAttempt.1.records = p.records ∧ p.applyAttempt.1.timer = p.timer ∧ p.applyAttempt.1.arbiter = p.arbiter ∧
      p.applyAttempt.1.opState = p.opState ∧ p.applyAttempt.1.ports = p.ports ∧ p.applyAttempt.1.copy = p.copy ∧
      p.applyAttempt.1.stallLimit = p.stallLimit := by
  rcases p.applyAttempt_cases with h | h | h <;> simp [h, Part.applyStage, Part.rejectStage]

end Sys2Proof.Machine
end

