-- ==== Sys2Proof/Laws/Memory.lean ====
section
/-!
SUPPORT. The laws of the shared SRAM: a read after a write, and the canonical form, which every write keeps.
-/

namespace Sys2Proof.Machine

theorem Memory.above_mono {a b : Nat} (h : a ≤ b) {m : Memory} (hm : Memory.above b m = true) :
    Memory.above a m = true := by
  induction m with
  | nil => rfl
  | cons e rest ih =>
    simp only [Memory.above, Bool.and_eq_true, decide_eq_true_eq] at hm ⊢
    exact ⟨by omega, ih hm.2⟩

theorem Memory.readByte_below {a : Nat} {m : Memory} (hm : Memory.above a m = true) :
    m.readByte a = Memory.unlisted := by
  induction m with
  | nil => rfl
  | cons e rest ih =>
    simp only [Memory.above, Bool.and_eq_true, decide_eq_true_eq] at hm
    simp [Memory.readByte, show e.1 ≠ a by omega, ih hm.2]

theorem Memory.above_writeByte {a k : Nat} (h : k < a) {m : Memory} (hm : Memory.above k m = true) (v : Byte) :
    Memory.above k (m.writeByte a v) = true := by
  induction m with
  | nil => simp only [Memory.writeByte]; split <;> simp [Memory.above, h]
  | cons e rest ih =>
    have hm' := hm
    simp only [Memory.above, Bool.and_eq_true, decide_eq_true_eq] at hm'
    simp only [Memory.writeByte]
    repeat' split
    all_goals simp [Memory.above, hm', h, ih hm'.2]

/-- A write of a byte keeps the canonical form. -/
theorem Memory.wf_writeByte {m : Memory} (hm : m.wf = true) (a : Nat) (v : Byte) : (m.writeByte a v).wf = true := by
  induction m with
  | nil => simp only [Memory.writeByte]; split <;> simp_all [Memory.wf, Memory.above]
  | cons e rest ih =>
    simp only [Memory.wf, Bool.and_eq_true, decide_eq_true_eq] at hm
    simp only [Memory.writeByte]
    repeat' split
    · simp [Memory.wf, hm]
    · simp [Memory.wf, Memory.above, *, Memory.above_mono (Nat.le_of_lt ‹a < e.1›)]
    · exact hm.2
    · subst_vars; simp [Memory.wf, *]
    · simp [Memory.wf, hm, ih hm.2, Memory.above_writeByte (show e.1 < a by omega) hm.1.2]

/-- A write of a word keeps the canonical form. -/
theorem Memory.wf_writeWord {m : Memory} (hm : m.wf = true) (a : Addr) (l : Lanes) (d : Word) :
    (m.writeWord a l d).wf = true := by
  simp only [Memory.writeWord]
  repeat' split
  all_goals simp [Memory.wf_writeByte, hm]

/-- The byte written reads back. -/
theorem Memory.readByte_writeByte_same {m : Memory} (hm : m.wf = true) (a : Nat) (v : Byte) :
    (m.writeByte a v).readByte a = v := by
  induction m with
  | nil => simp only [Memory.writeByte]; split <;> simp_all [Memory.readByte]
  | cons e rest ih =>
    simp only [Memory.wf, Bool.and_eq_true, decide_eq_true_eq] at hm
    simp only [Memory.writeByte]
    repeat' split
    · rename_i h1 h2
      simp [Memory.readByte, show e.1 ≠ a by omega, h2, Memory.readByte_below (Memory.above_mono (Nat.le_of_lt h1) hm.1.2)]
    · simp [Memory.readByte]
    · rename_i h1 h2 h3
      rw [h3, h2]; exact Memory.readByte_below hm.1.2
    · simp [Memory.readByte]
    · rename_i h1 h2
      simp [Memory.readByte, Ne.symm h2, ih hm.2]

/-- Every other byte reads as before. -/
theorem Memory.readByte_writeByte_ne {a b : Nat} (h : b ≠ a) (m : Memory) (v : Byte) :
    (m.writeByte a v).readByte b = m.readByte b := by
  induction m with
  | nil => simp only [Memory.writeByte]; split <;> simp [Memory.readByte, Ne.symm h]
  | cons e rest ih =>
    simp only [Memory.writeByte]
    repeat' split
    all_goals simp only [Memory.readByte, ih]
    · rw [if_neg (Ne.symm h)]
    · rename_i h2 _
      rw [if_neg (h2 ▸ Ne.symm h)]
    · rename_i h2 _
      rw [if_neg (Ne.symm h), if_neg (h2 ▸ Ne.symm h)]

/-- The reset memory is in canonical form. -/
theorem Memory.wf_reset : State.reset.mem.wf = true := rfl

theorem Memory.keys_ne (a : Addr) : Memory.upperKey a ≠ Memory.lowerKey a := by
  simp [Memory.upperKey, Memory.lowerKey]

/-- A write of a word changes no byte but those of its enabled lanes (R31). -/
theorem Memory.readByte_writeWord_ne {m : Memory} {a : Addr} {l : Lanes} {b : Nat}
    (hl : l.lower = true → b ≠ Memory.lowerKey a) (hu : l.upper = true → b ≠ Memory.upperKey a) (d : Word) :
    (m.writeWord a l d).readByte b = m.readByte b := by
  simp only [Memory.writeWord]
  split <;> split <;> simp_all [Memory.readByte_writeByte_ne]

/-- The enabled lanes of a word written read back; the others are as they were (R31). -/
theorem Memory.readWord_writeWord {m : Memory} (hm : m.wf = true) (a : Addr) (l : Lanes) (d : Word) :
    (m.writeWord a l d).readWord a = pickBits (laneBits l) d (m.readWord a) := by
  have hx : ∀ x y : Byte, pickBits (laneBits l) d (x ++ y) =
      (if l.upper then d.extractLsb' 8 8 else x) ++ (if l.lower then d.extractLsb' 0 8 else y) := by
    intro x y
    have ha : ∀ (u v : Byte) (i : Nat) (h : i < 16), (u ++ v : Word)[i] = if h8 : i < 8 then v[i] else u[i - 8] :=
      fun u v i h => @BitVec.getElem_append 8 8 i u v h
    obtain ⟨lo, up⟩ := l
    ext i hi
    rw [ha]
    cases lo <;> cases up <;> interval_cases i <;> simp [pickBits, laneBits, ha]
  rw [Memory.readWord, Memory.readWord, hx]
  congr 1
  · cases hu : l.upper
    · exact Memory.readByte_writeWord_ne (fun _ => Memory.keys_ne a) (by simp [hu]) d
    · simp only [Memory.writeWord, hu, if_true]
      exact Memory.readByte_writeByte_same (by split <;> simp [Memory.wf_writeByte, hm]) _ _
  · cases hl : l.lower
    · exact Memory.readByte_writeWord_ne (by simp [hl]) (fun _ => (Memory.keys_ne a).symm) d
    · simp only [Memory.writeWord, hl, if_true]
      split
      · rw [Memory.readByte_writeByte_ne (Memory.keys_ne a).symm, Memory.readByte_writeByte_same hm]
      · rw [Memory.readByte_writeByte_same hm]

end Sys2Proof.Machine
end

