-- ==== Sys2Proof/Laws/Step.lean ====
section
/-!
SUPPORT. Said once: what any command can do to the records of the windows and to the shared SRAM.
-/

namespace Sys2Proof.Machine

/-! ## The records -/

/-- What a command can do to the records: changes from where they stood, or from their reset values. -/
def Part.recordsMove (p q : Part) : Prop :=
  ∀ w, Record.Changes true (p.record w) (q.record w) ∨ Record.Changes true Record.reset (q.record w)

theorem Part.recordsMove_same {p q : Part} (h : q.records = p.records) : Part.recordsMove p q :=
  fun w => .inl (by simp only [Part.record, h]; exact .refl)

theorem Part.Moves.recordsMove {p q : Part} (h : Part.Moves true p q) : Part.recordsMove p q := fun w => .inl (h.records w)

/-- Moves from a part with the same records. -/
theorem Part.Moves.recordsMove_of {p b q : Part} (h : Part.Moves true b q) (hb : b.records = p.records) :
    Part.recordsMove p q := fun w => .inl (by
  have := h.records w
  rwa [show b.record w = p.record w by simp only [Part.record, hb]] at this)

/-- Moves from a part whose records are reset. -/
theorem Part.Moves.recordsMove_reset {b q : Part} (h : Part.Moves true b q) (hb : b.records = Part.reset.records) (p : Part) :
    Part.recordsMove p q := fun w => .inr (by
  have := h.records w
  rwa [show b.record w = Record.reset by simp [Part.record, hb, Part.reset]] at this)

theorem Part.recordsMove_trans {p q r : Part} (h : Part.recordsMove p q) (k : Part.recordsMove q r) :
    Part.recordsMove p r := fun w => by
  rcases k w with k' | k'
  · exact (h w).imp (fun h' => h'.trans k') (fun h' => h'.trans k')
  · exact .inr k'

theorem Part.recordsMove_refl (p : Part) : Part.recordsMove p p := Part.recordsMove_same rfl

theorem Part.loseLock_records (p : Part) : p.loseLock.records = p.records := rfl

theorem Part.restoreLock_records (p : Part) : p.restoreLock.records = p.records := rfl

theorem Part.recordsMove_settle (p : Part) : Part.recordsMove p p.settle := p.moves_settle.recordsMove

theorem Part.recordsMove_boundary (p : Part) : Part.recordsMove p p.boundary := by
  refine Part.Moves.recordsMove_of (Part.moves_deliverBoundary (fun _ _ => rfl)) ?_
  rw [(Part.applyAttempt_keeps _).1]
  rfl

theorem Part.recordsMove_dueBoundary (p : Part) (d : Due) : Part.recordsMove p (p.dueBoundary d) := by
  cases d
  · exact p.recordsMove_refl
  · exact Part.recordsMove_trans p.recordsMove_boundary (Part.recordsMove_settle _)
  · exact Part.recordsMove_trans
      (Part.recordsMove_trans p.recordsMove_boundary (Part.recordsMove_same (Part.loseLock_records _)))
      (Part.recordsMove_settle _)
  · exact Part.recordsMove_trans p.recordsMove_boundary (Part.recordsMove_settle _)

theorem Part.tickStart_records (p : Part) : ({ p with timer := p.timer.tick }).advanceStalls.records = p.records := rfl

theorem Part.recordsMove_timeoutsOf (p : Part) (first : PerPort Bool) : Part.recordsMove p (p.timeoutsOf first) := by
  unfold Part.timeoutsOf
  have ha := (p.moves_timeout .a).recordsMove
  have hb := (p.moves_timeout .b).recordsMove
  have hab := Part.recordsMove_trans ha ((p.timeout .a).moves_timeout .b).recordsMove
  cases first.a <;> cases first.b
  · exact Part.recordsMove_refl p
  · exact hb
  · exact ha
  · exact hab

theorem Part.recordsMove_tick (p : Part) (first : PerPort Bool) : Part.recordsMove p (p.tick first) := by
  unfold Part.tick
  split
  case isTrue =>
    have h0 := Part.recordsMove_same (p.tickStart_records)
    generalize ({ p with timer := p.timer.tick }).advanceStalls = p1 at *
    dsimp only
    split_ifs
    · exact Part.recordsMove_trans h0 p1.moves_timeouts.recordsMove
    · exact Part.recordsMove_trans h0 (Part.recordsMove_trans
        (Part.recordsMove_trans (p1.recordsMove_timeoutsOf first) (Part.recordsMove_dueBoundary _ _))
        (Part.moves_timeouts _).recordsMove)
    · exact Part.recordsMove_trans h0 (p1.recordsMove_dueBoundary _)
  case isFalse => exact Part.recordsMove_refl p

theorem Part.recordsMove_syncEdge (p : Part) : Part.recordsMove p p.syncEdge := by
  unfold Part.syncEdge
  repeat' split
  · exact p.recordsMove_refl
  · exact Part.recordsMove_trans p.recordsMove_boundary (Part.recordsMove_settle _)
  · exact Part.recordsMove_same rfl
  · exact Part.recordsMove_trans
      (Part.recordsMove_trans p.recordsMove_boundary (Part.recordsMove_same (Part.restoreLock_records _)))
      (Part.recordsMove_settle _)
  · exact p.recordsMove_refl

theorem Part.recordsMove_enterRun (p : Part) : Part.recordsMove p p.enterRun := by
  unfold Part.enterRun
  dsimp only
  refine Part.recordsMove_trans ?_ (Part.recordsMove_settle _)
  refine Part.Moves.recordsMove_of (Part.moves_foldl (fun q w => ?_) allWindows _) rfl
  split
  · exact q.moves_enable w
  · exact .refl q

theorem Part.recordsMove_enterStopping (p : Part) : Part.recordsMove p p.enterStopping := by
  unfold Part.enterStopping
  dsimp only
  refine Part.recordsMove_trans ?_ (Part.recordsMove_settle _)
  refine Part.Moves.recordsMove_of ((Part.moves_foldl (fun q w => ?_) allWindows _).trans (Part.moves_checkStandby _)) rfl
  repeat' split
  · exact .refl q
  · exact q.moves_retire w
  · exact .refl q

/-! ## Commands of the link and of the resets -/

theorem State.recordsMove_softResetCheck (s : State) : Part.recordsMove s.part s.softResetCheck.part := by
  unfold State.softResetCheck
  split <;> exact Part.recordsMove_same rfl

theorem Part.recordsMove_softResetBlocks (p : Part) : Part.recordsMove p p.softResetBlocks := by
  unfold Part.softResetBlocks
  refine Part.Moves.recordsMove_reset (Part.moves_offer _) ?_ p
  rfl

theorem State.recordsMove_softResetApply (s : State) : Part.recordsMove s.part s.softResetApply.part :=
  Part.recordsMove_trans s.part.recordsMove_softResetBlocks (State.recordsMove_softResetCheck { s with part := s.part.softResetBlocks })

theorem State.recordsMove_softResetTaken (s : State) : Part.recordsMove s.part s.softResetTaken.part := by
  unfold State.softResetTaken
  dsimp only
  split
  · exact Part.recordsMove_same rfl
  · exact State.recordsMove_softResetApply (s.withReply [])

theorem State.recordsMove_takeRun (s : State) : Part.recordsMove s.part s.takeRun.part := by
  unfold State.takeRun
  repeat' split
  all_goals simp only [State.carryOut_part, State.result_part]
  · exact Part.recordsMove_enterRun _
  all_goals exact Part.recordsMove_refl _

theorem State.recordsMove_takeStandby (s : State) : Part.recordsMove s.part s.takeStandby.part := by
  unfold State.takeStandby
  split
  all_goals simp only [State.carryOut_part, State.result_part]
  · exact Part.recordsMove_enterStopping _
  all_goals exact Part.recordsMove_refl _

theorem State.recordsMove_takeBoundary (s : State) : Part.recordsMove s.part s.takeBoundary.part := by
  unfold State.takeBoundary
  split
  all_goals simp only [State.carryOut_part, State.result_part]
  · exact Part.recordsMove_trans (Part.recordsMove_boundary _) (Part.recordsMove_settle _)
  all_goals exact Part.recordsMove_refl _

theorem State.recordsMove_takeSetChannels (s : State) (m : Byte) : Part.recordsMove s.part (s.takeSetChannels m).part := by
  unfold State.takeSetChannels
  split
  all_goals simp only [State.carryOut_part, State.result_part]
  · exact Part.recordsMove_refl _
  · exact Part.recordsMove_trans (q := s.part.setMasks m) (Part.recordsMove_same rfl) (Part.recordsMove_settle _)

/-- The commands of the link that leave every record. -/
def leavesRecords : LinkCommand → Bool
  | .run | .standby | .softReset | .boundary | .setChannels _ => false
  | _ => true

theorem State.takeCommand_records {c : LinkCommand} (h : leavesRecords c = true) (s : State) :
    (s.takeCommand c).part.records = s.part.records := by
  cases c <;> try cases h
  all_goals simp only [State.takeCommand, State.takeGetStatus, State.takeSetWindow, State.takeGetWindow,
    State.takeGetWindowState, State.takeClearStage, State.takeHold, State.takeUnhold, State.takeSetTiming,
    State.takeSetPeriod, State.takeLatchTimer, State.takeReadTimer, State.takeGetChannel, State.takeSetLimits,
    State.takeSetNoticeMasks, State.takePoll, State.takeReadGlobal]
  all_goals repeat' split
  all_goals simp only [State.carryOut_part, State.result_part, State.withReply_part, Part.setPeriod]
  all_goals first | rfl | (split <;> rfl)

theorem State.recordsMove_takeCommand (s : State) (c : LinkCommand) : Part.recordsMove s.part (s.takeCommand c).part := by
  cases hq : leavesRecords c
  · cases c <;> simp only [leavesRecords, Bool.true_eq_false] at hq
    · exact s.recordsMove_takeRun
    · exact s.recordsMove_takeStandby
    · exact s.recordsMove_softResetTaken
    · exact s.recordsMove_takeBoundary
    · exact s.recordsMove_takeSetChannels _
  · exact Part.recordsMove_same (s.takeCommand_records hq)

theorem State.recordsMove_frameEnd (s : State) (v : Verdict) : Part.recordsMove s.part (s.frameEnd v).part := by
  unfold State.frameEnd
  split
  · exact Part.recordsMove_refl s.part
  · exact Part.recordsMove_refl s.part
  · exact State.recordsMove_takeCommand s.frameEnded _

theorem Part.finishAwaited_records (p : Part) (m : MemAccess) (word : Word) (awaited : PerPort Bool) :
    (p.finishAwaited m word awaited).records = (p.finishAccess m word).records := by
  simp only [Part.finishAwaited]

theorem Part.recordsMove_finishAwaited (p : Part) (m : MemAccess) (word : Word) (awaited : PerPort Bool) :
    Part.recordsMove p (p.finishAwaited m word awaited) :=
  Part.recordsMove_trans (p.moves_finishAccess m word).recordsMove
    (Part.recordsMove_same (p.finishAwaited_records m word awaited))

theorem State.recordsMove_completed (s : State) (m : MemAccess) (word : Word) :
    Part.recordsMove s.part (s.completed m word).part := by
  unfold State.completed
  split <;> try dsimp only
  · exact (s.part.moves_secondHalf m _ word).recordsMove
  · split <;> try dsimp only
    · exact (s.part.moves_finishAccess m word).recordsMove
    · exact Part.recordsMove_trans (s.part.moves_deliverLast m word).recordsMove
        (State.recordsMove_softResetApply { s with part := s.part.deliverLast m word })
    · rename_i awaited _
      exact Part.recordsMove_trans (s.part.recordsMove_finishAwaited m word awaited)
        (State.recordsMove_softResetCheck { s with part := s.part.finishAwaited m word awaited })

theorem State.recordsMove_memoryCompletion (s : State) : Part.recordsMove s.part s.memoryCompletion.part := by
  unfold State.memoryCompletion
  split
  · exact Part.recordsMove_refl _
  · rename_i m _
    exact State.recordsMove_completed (({ s with mem := s.accessMem m }).useFree) m (s.accessWord m)

theorem State.recordsMove_present (s : State) (q : Port) (a : Access) : Part.recordsMove s.part (s.present q a).part := by
  unfold State.present
  repeat' split
  · exact Part.recordsMove_same (q := s.part.beginCycle q) rfl
  · exact (Part.moves_arrive _ _ _).recordsMove
  · exact Part.recordsMove_refl _

theorem Part.recordsMove_afterReset (p : Part) : Part.recordsMove p p.afterReset :=
  (Part.Moves.refl _).recordsMove_reset rfl p

/-- What every command can do to the records: changes (`Record.Change`), from where they stood or from reset. -/
theorem exec_recordsMove {i : Instr} {s t : State} (h : exec i s = .next t) : Part.recordsMove s.part t.part := by
  have link : ∀ v, Part.recordsMove s.part (s.frameEnd v).part := fun v => s.recordsMove_frameEnd v
  cases i <;> simp only [exec] at h <;> cases h
  case tick =>
    split
    · exact Part.recordsMove_tick _ _
    · exact Part.recordsMove_refl _
  case accessArrival =>
    split
    · exact s.recordsMove_present _ _
    · exact Part.recordsMove_refl _
  case stallLimitReached =>
    split
    · exact Part.recordsMove_tick _ _
    · exact Part.recordsMove_refl _
  case periodBoundary =>
    split
    · exact Part.recordsMove_tick _ _
    · exact Part.recordsMove_refl _
  case syncLoss =>
    split
    · exact Part.recordsMove_tick _ _
    · exact Part.recordsMove_refl _
  case flywheelBoundary =>
    split
    · exact Part.recordsMove_tick _ _
    · exact Part.recordsMove_refl _
  case syncInEdge => exact Part.recordsMove_syncEdge _
  case memoryAccessCompletion => exact s.recordsMove_memoryCompletion
  case softResetApply =>
    split
    · exact s.recordsMove_memoryCompletion
    · exact Part.recordsMove_refl _
  case softResetDone =>
    split
    · exact s.recordsMove_memoryCompletion
    · exact Part.recordsMove_refl _
  case resetPin => exact s.part.recordsMove_afterReset
  case powerUp => exact s.part.recordsMove_afterReset
  case frameStart => split <;> exact Part.recordsMove_refl _
  case sckEdge =>
    repeat' split
    all_goals exact Part.recordsMove_refl _
  all_goals first
    | exact link _
    | exact s.recordsMove_present _ _
    | exact Part.recordsMove_same rfl

end Sys2Proof.Machine
end

