-- ==== Sys2Proof/Tests/Slice0.lean ====
section
/-!
SUPPORT. The model's own tests: the well-formedness check on ill-formed terms; for every statement with hypotheses a
concrete state and operands that meet them, each clause apart and at the ends of its ranges; and what single commands
do on a small state.
-/

namespace Sys2Proof.Tests

open Sys2Proof.Machine

/-! ## Well-formed commands -/

theorem test_wf_arrival_without_strobe : (Instr.accessArrival .a 0 false false Lanes.both 0).wf = false := by decide
theorem test_wf_tag_write_to_control : (Instr.tagWrite .a 0 .control Lanes.both 0).wf = false := by decide
theorem test_wf_arrivals : (Instr.accessArrival .a 0 true false Lanes.both 0).wf = true ∧
    (Instr.accessArrival .b 0xFFFFF true true ⟨false, false⟩ 0).wf = true ∧
    (Instr.tagWrite .b 15 .fill ⟨false, true⟩ 7).wf = true := by decide
theorem test_table_gives_no_bits : decodeTableWord 8 0x20 = none ∧ decodeTableWord 0 0 = none := by decide

/-! ## Small states -/

/-- Window 0 of the small states: two lines, produced by port A. -/
def geo : Geometry := ⟨.a, 0x100#20, 2, 0x200#20, 0x300#20⟩

/-- Its live descriptor. -/
def desc : Descriptor := ⟨true, .a, 0x100#20, 2, 0x200#20, 0x300#20, .explicit, false, true, 2, 0xFFFF#16⟩

/-- Its service state: LIVE, every bank up to date, nothing ready, nothing written. -/
def live : Service where
  retiring := false
  geometry := geo
  front := .b0
  back := .b1
  ready := none
  stale := ⟨0#64, 0#64, 0#64⟩
  dirty := 0#64
  pin := none
  initial := false
  late := false
  deferred := false
  releasePending := false
  carried := false

/-- Both lines stale in the back. -/
def stale : Service := { live with stale := ⟨0#64, 3#64, 0#64⟩ }

/-- The part in RUN with window 0 in service. -/
def running (sv : Service) (d : Descriptor) : Part := { Part.reset with
  opState := .run
  timer := { Timer.reset with running := true }
  live := Part.reset.live.set 0 d
  records := Part.reset.records.set 0 { Record.reset with service := some sv, frontNumber := 7, next := 8 } }

/-- The state of that part. -/
def inRun (sv : Service) : State := State.reset.onPart (running sv desc)

/-- The same with window 0 under another descriptor. -/
def inRunUnder (d : Descriptor) (sv : Service) : State := State.reset.onPart (running sv d)

/-- The memory port is busy with `m`. -/
def busyWith (m : MemAccess) (s : State) : State :=
  s.onPart { s.part with arbiter := { s.part.arbiter with access := some m } }

/-- A port holds an access. -/
def holding (q : Port) (a : Access) (s : State) : State := s.onPart (s.part.withPort q (.holding a))

/-- A channel has work. -/
def working (c : Chan) (k : ChannelWork) (s : State) : State := s.onPart (s.part.setChannelWork c k)

/-- Every channel is masked. -/
def allMasked (s : State) : State :=
  s.onPart { s.part with copy := { s.part.copy with channels := Vector.replicate 4 ⟨.idle, true, 0#16⟩ } }

/-- The timer of the state. -/
def timed (t : Timer) (s : State) : State := s.onPart { s.part with timer := t }

/-- A read by port B at the word 0x105. -/
def readB : MemAccess := .ofPort .b false 0x105#20 Lanes.both 0#16 4

/-- The line copy of line 0 from bank 0 into bank 1 at a word and a half. -/
def copyAt (word : Fin 16) (half : Half) : LineCopy := ⟨0, 0x100#20, 0x200#20, word, half⟩

/-- A port's access to the word 0x104. -/
def held (write : Bool) (phase : Phase) : Access := ⟨0x104#20, write, Lanes.both, 0#16, phase⟩

/-! ## Hypotheses from their Bool forms -/

theorem mem_windows : ∀ v : Win, v ∈ allWindows := by decide

theorem mem_channels : ∀ c : Chan, c ∈ allChannels := by decide

theorem noOther_of {p : Part} {w : Win} {a : Addr}
    (h : (allWindows.all fun v => decide (v = w) || (p.service v).isNone) = true) : p.noOtherHolds w a := by
  intro v sv hv hs k
  have := List.all_eq_true.mp h v (mem_windows v)
  simp [hv, hs] at this

theorem none_of {p : Part} {a : Addr} {w : Win} {sv : Service} (hs : p.service w = some sv)
    (h : (allWindows.all fun v => decide (v = w) || (p.service v).isNone) = true)
    (ha : ∀ k, ¬ sv.geometry.holds k a) : p.noneHolds a := by
  intro v sv' hs'
  by_cases hv : v = w
  · subst hv
    rw [hs] at hs'
    obtain rfl : sv = sv' := by injection hs'
    exact ha
  · exact noOther_of h v sv' hv hs'

theorem quiet_of {s : State} {q : Port}
    (h : (s.canPresent q && s.part.atRest && s.part.noIdleRequest) = true) : s.quietFor q := by
  simp only [Bool.and_eq_true] at h
  exact ⟨h.1.1, h.1.2, h.2⟩

theorem open_of {p : Part} {q : Port} {w : Win} {sv : Service} {word : TagWord}
    (h : (decide (p.opState ≠ .standby) && decide (p.service w = some sv) && !sv.retiring && (p.liveOf w).tags &&
      decide (sv.geometry.logicalBase.toNat % 16 = 0) && decide (1 ≤ sv.geometry.length) &&
      (decide (sv.geometry.producer ≠ q) || !sv.releasePending) &&
      allWindows.all fun v => decide (v = w) || (p.service v).isNone) = true) : p.tagOpen q w sv word := by
  simp only [Bool.and_eq_true, Bool.or_eq_true, decide_eq_true_eq, Bool.not_eq_true'] at h
  obtain ⟨⟨⟨⟨⟨⟨⟨h1, h2⟩, h3⟩, h4⟩, h5⟩, h6⟩, h7⟩, h8⟩ := h
  exact ⟨h1, h2, h3, h4, h5, h6, fun hq => h7.resolve_left (fun h => h hq), noOther_of h8⟩

theorem logical_of {p : Part} {w : Win} {sv : Service} {a : Addr}
    (h : (decide (p.opState ≠ .standby) && decide (p.service w = some sv) &&
      decide (sv.geometry.logicalBase.toNat ≤ a.toNat) &&
      decide (a.toNat < sv.geometry.logicalBase.toNat + 16 * sv.geometry.length) &&
      allWindows.all fun v => decide (v = w) || (p.service v).isNone) = true) : p.logicalOf w sv a := by
  simp only [Bool.and_eq_true, decide_eq_true_eq] at h
  obtain ⟨⟨⟨⟨h1, h2⟩, h3⟩, h4⟩, h5⟩ := h
  exact ⟨h1, h2, ⟨h3, h4⟩, noOther_of h5⟩

theorem onlyPort_of {p : Part} {q : Port}
    (h : (!p.touchRequests && (allChannels.all fun c => !p.channelRequests c) && !p.portRequests q.other) = true) :
    p.onlyPortActive q := by
  simp only [Bool.and_eq_true, Bool.not_eq_true'] at h
  refine ⟨h.1.1, fun c => ?_, h.2⟩
  simpa using List.all_eq_true.mp h.1.2 c (mem_channels c)

theorem onlyChannel_of {p : Part} {c : Chan}
    (h : (!p.touchRequests && (allChannels.all fun d => decide (d = c) || !p.channelRequests d) &&
      !p.portRequests .a && !p.portRequests .b) = true) : p.onlyChannelActive c := by
  simp only [Bool.and_eq_true, Bool.not_eq_true'] at h
  refine ⟨h.1.1.1, fun d hd => ?_, fun q => ?_⟩
  · simpa [hd] using List.all_eq_true.mp h.1.1.2 d (mem_channels d)
  · cases q
    · exact h.1.2
    · exact h.2

theorem others_of {p : Part} {c : Chan} {w : Win}
    (h : (allChannels.all fun d => decide (d = c) || decide ((p.channel d).work = .idle)) = true) :
    ∀ d, d ≠ c → ∀ job cp, (p.channel d).work ≠ .serving w job cp := by
  intro d hd job cp hw
  have := List.all_eq_true.mp h d (mem_channels d)
  simp [hd, hw] at this

theorem noAccess_of {p : Part} (h : ((p.accessOf .a).isNone && (p.accessOf .b).isNone) = true) :
    ∀ q, p.accessOf q = none := by
  simp only [Bool.and_eq_true, Option.isNone_iff_eq_none] at h
  intro q
  cases q
  · exact h.1
  · exact h.2

theorem noTimeout_of {p : Part} {q : Port} (h : p.accessOf q = none) : p.noTimeoutNext q := by
  intro a st n ha
  rw [h] at ha
  cases ha

theorem onlyTouch_of {p : Part}
    (h : ((allChannels.all fun d => !p.channelRequests d) && !p.portRequests .a && !p.portRequests .b) = true) :
    p.onlyTouchActive := by
  simp only [Bool.and_eq_true, Bool.not_eq_true'] at h
  refine ⟨fun c => by simpa using List.all_eq_true.mp h.1.1 c (mem_channels c), fun q => ?_⟩
  cases q
  · exact h.1.2
  · exact h.2

theorem noneIn_of {p : Part} {w : Win}
    (h : (allChannels.all fun c => match (p.channel c).work with
      | .serving v _ none => decide (v ≠ w)
      | _ => true) = true) : p.noChannelWaitsIn w := by
  intro c job hw
  have := List.all_eq_true.mp h c (mem_channels c)
  simp [hw] at this

/-! ## What the hypotheses of the statements meet: accesses that arrive -/

theorem test_meets_StepRunsTheFrontCommand : State.reset.pending = [] := rfl

theorem test_meets_BusCycles :
    let s := State.reset
    let low : State := { s with resetLow := true }
    let busy : State := s.onPart { s.part with ports := ⟨⟨none, none, true⟩, PortIf.reset⟩ }
    let draining : State := s.onPart { s.part with softReset := .draining }
    low.held = true ∧ (busy.held = false ∧ (busy.part.ports.get .a).ready = false) ∧
      (draining.held = false ∧ (draining.part.ports.get .a).ready = true ∧ draining.part.softReset = .draining) := by
  decide

theorem test_meets_PassThroughGranted :
    (State.reset.quietFor .a ∧ State.reset.part.memoryFree = true ∧ State.reset.part.opState = .standby) ∧
      ((inRun live).quietFor .b ∧ (inRun live).part.memoryFree = true ∧ (inRun live).part.noneHolds 0x0FF#20 ∧
        (inRun live).part.noneHolds 0x120#20) :=
  ⟨⟨quiet_of (by decide), by decide, by decide⟩, quiet_of (by decide), by decide,
    none_of (w := 0) (sv := live) (by decide) (by decide) (by intro k; cases k <;> (unfold Geometry.holds; decide)),
    none_of (w := 0) (sv := live) (by decide) (by decide) (by intro k; cases k <;> (unfold Geometry.holds; decide))⟩

theorem test_meets_WindowReadsGranted :
    ((inRun live).quietFor .b ∧ (inRun live).part.memoryFree = true ∧ (inRun live).part.logicalOf 0 live 0x104#20 ∧
      (inRun live).part.noTagWord 0 live 0x104#20 ∧ live.retiring = false ∧ live.geometry.producer ≠ .b) ∧
    ((inRun stale).quietFor .a ∧ (inRun stale).part.memoryFree = true ∧
      (inRun stale).part.logicalOf 0 stale 0x11F#20 ∧ (inRun stale).part.noTagWord 0 stale 0x11F#20 ∧
      stale.retiring = false ∧ stale.geometry.producer = .a ∧ stale.releasePending = false ∧
      lineIn stale.backStale (stale.geometry.offset 0x11F#20 / 16) = true) :=
  ⟨⟨quiet_of (by decide), by decide, logical_of (by decide), .inr (by decide), by decide, by decide⟩,
    quiet_of (by decide), by decide, logical_of (by decide), .inr (by decide), by decide, by decide, by decide, by decide⟩

theorem test_meets_ProducerWriteToBack :
    (inRun live).quietFor .a ∧ (inRun live).part.memoryFree = true ∧ (inRun live).part.logicalOf 0 live 0x104#20 ∧
      (inRun live).part.noTagWord 0 live 0x104#20 ∧ live.retiring = false ∧ live.geometry.producer = .a ∧
      live.releasePending = false ∧ lineIn live.backStale (live.geometry.offset 0x104#20 / 16) = false ∧
      ((inRun live).part.liveOf 0).writeMask = 0xFFFF#16 ∧
      ((inRunUnder { desc with writeMask := 0x00FF#16 } live).part.liveOf 0).writeMask ≠ 0xFFFF#16 :=
  ⟨quiet_of (by decide), by decide, logical_of (by decide), .inr (by decide), by decide, by decide, by decide, by decide,
    by decide, by decide⟩

theorem test_meets_IntrusionReadGranted :
    (inRun live).quietFor .b ∧ (inRun live).part.memoryFree = true ∧ (inRun live).part.opState ≠ .standby ∧
      (inRun live).part.service 0 = some live ∧ live.geometry.holds .bank1 0x200#20 ∧
      live.geometry.holds .bank2 0x31F#20 ∧ ¬ live.geometry.holds .logical 0x200#20 ∧
      ¬ live.geometry.holds .logical 0x31F#20 ∧ (inRun live).part.noOtherHolds 0 0x200#20 ∧
      (inRun live).part.noOtherHolds 0 0x31F#20 :=
  ⟨quiet_of (by decide), by decide, by decide, by decide, by unfold Geometry.holds; decide,
    by unfold Geometry.holds; decide, by unfold Geometry.holds; decide, by unfold Geometry.holds; decide,
    noOther_of (by decide), noOther_of (by decide)⟩

theorem test_meets_DiscardedWrites :
    (inRun live).quietFor .b ∧
      ((inRun live).part.logicalOf 0 live 0x11F#20 ∧ (inRun live).part.noTagWord 0 live 0x11F#20 ∧
        live.retiring = false ∧ live.geometry.producer ≠ .b) ∧
      ((inRun live).part.opState ≠ .standby ∧ (inRun live).part.service 0 = some live ∧
        live.geometry.holds .bank2 0x300#20 ∧ ¬ live.geometry.holds .logical 0x300#20 ∧
        (inRun live).part.noOtherHolds 0 0x300#20) :=
  ⟨quiet_of (by decide), ⟨logical_of (by decide), .inr (by decide), by decide, by decide⟩, by decide, by decide,
    by unfold Geometry.holds; decide, by unfold Geometry.holds; decide, noOther_of (by decide)⟩

/-- The window RETIRING, and the window with a release pending, its channels masked. -/
def retiring : Service := { live with stale := ⟨3#64, 0#64, 0#64⟩, front := .b1, back := .b0, retiring := true }
def pending : Service := { stale with releasePending := true }

theorem test_meets_HeldByTheWindowOrTheBusyPort :
    ((inRun retiring).quietFor .b ∧ (inRun retiring).part.logicalOf 0 retiring 0x100#20 ∧ retiring.retiring = true) ∧
    ((inRun pending).quietFor .a ∧ (inRun pending).part.logicalOf 0 pending 0x100#20 ∧ pending.retiring = false ∧
      pending.geometry.producer = .a ∧ pending.releasePending = true) ∧
    ((busyWith readB (inRun live)).quietFor .a ∧ (busyWith readB (inRun live)).part.arbiter.access.isSome = true ∧
      (busyWith readB (inRun live)).part.classify .a 0xFFFFF#20 false = .memory .passThrough ∧
      (busyWith readB (inRun live)).part.classify .a 0x104#20 true = .memory (.producerWrite 0 false)) :=
  ⟨⟨quiet_of (by decide), logical_of (by decide), by decide⟩, ⟨quiet_of (by decide), logical_of (by decide), by decide,
    by decide, by decide⟩, quiet_of (by decide), by decide, by decide, by decide⟩

/-- The touch copier copies line 1 for port A, whose earlier entry stands. -/
def touching : State :=
  (inRun stale).onPart { (inRun stale).part with copy := { CopyEngine.reset with
    touch := ⟨.copying 0 ⟨1, 0x100#20, 0x200#20, 0, .read⟩, 0#16⟩, queue := [⟨.a, 0, 1, true, false⟩] } }

/-- The same for an entry of port B. -/
def touchingForB : State :=
  (inRun stale).onPart { (inRun stale).part with copy := { CopyEngine.reset with
    touch := ⟨.copying 0 ⟨1, 0x100#20, 0x200#20, 0, .read⟩, 0#16⟩, queue := [⟨.b, 0, 1, true, false⟩] } }

/-- The entry of port B waits on the line that channel 0 copies, the touch copier IDLE, the memory port free but for it. -/
def queuedForB : State :=
  let s := busyWith readB (working 0 (.serving 0 .catchUp (some ⟨1, 0x100#20, 0x200#20, 0, .read⟩)) (inRun stale))
  s.onPart (s.part.setQueue [⟨.b, 0, 1, false, false⟩])

theorem test_meets_TouchWaitBegins :
    ((inRun stale).part.logicalOf 0 stale 0x104#20 ∧ (inRun stale).part.noTagWord 0 stale 0x104#20 ∧
      stale.retiring = false ∧ stale.geometry.producer = .a ∧ stale.releasePending = false ∧
      lineIn stale.backStale 0 = true) ∧
    ((inRun stale).quietFor .a ∧ (inRun stale).part.copy.touch.work = .idle ∧
      lineIn ((inRun stale).part.inCopyLines 0) 0 = false ∧ (∀ e ∈ (inRun stale).part.copy.queue, e.port ≠ .a) ∧
      (inRun stale).part.memoryFree = true) ∧
    (queuedForB.quietFor .a ∧ queuedForB.part.copy.touch.work = .idle ∧
      lineIn (queuedForB.part.inCopyLines 0) 0 = false ∧ (∀ e ∈ queuedForB.part.copy.queue, e.port ≠ .a) ∧
      queuedForB.part.copy.queue ≠ [] ∧ queuedForB.part.arbiter.access.isSome = true) ∧
    ((busyWith readB touchingForB).quietFor .a ∧ (busyWith readB touchingForB).part.copy.touch.work ≠ .idle ∧
      ∀ e ∈ (busyWith readB touchingForB).part.copy.queue, e.port ≠ .a) ∧
    ((busyWith readB touching).quietFor .a ∧ ∃ e ∈ (busyWith readB touching).part.copy.queue, e.port = .a) :=
  ⟨⟨logical_of (by decide), .inr (by decide), by decide, by decide, by decide, by decide⟩,
    ⟨quiet_of (by decide), by decide, by decide, by decide, by decide⟩,
    ⟨quiet_of (by decide), by decide, by decide, by decide, by decide, by decide⟩,
    ⟨quiet_of (by decide), by decide, by decide⟩, quiet_of (by decide), by decide⟩

/-! ## The Tag Block -/

/-- Pinned, with a ready image. -/
def pinned : Service := { live with pin := some 1, ready := some ⟨.b2, 9#16, 1⟩ }

theorem test_meets_SeqFillAndControlReads :
    ((inRun live).quietFor .b ∧ (inRun live).part.tagOpen .b 0 live .seq ∧ live.geometry.producer ≠ .b) ∧
    ((inRun live).quietFor .a ∧ (inRun live).part.tagOpen .a 0 live .seq ∧ live.geometry.producer = .a) ∧
    ((inRun live).part.tagOpen .b 0 live .fill ∧ ((inRun live).part.record 0).frontFill ≤ 64) ∧
    ((inRun live).part.tagOpen .b 0 live .control ∧ ((inRun live).part.record 0).age ≤ 255 ∧
      ((inRun live).part.record 0).dropped ≤ 255) :=
  ⟨⟨quiet_of (by decide), open_of (by decide), by decide⟩, ⟨quiet_of (by decide), open_of (by decide), by decide⟩,
    ⟨open_of (by decide), by decide⟩, open_of (by decide), by decide, by decide⟩

theorem test_meets_StatusRead :
    ((inRun live).quietFor .a ∧ (inRun live).part.tagOpen .a 0 live .status) ∧
      ((inRun pinned).quietFor .b ∧ (inRun pinned).part.tagOpen .b 0 pinned .status) :=
  ⟨⟨quiet_of (by decide), open_of (by decide)⟩, quiet_of (by decide), open_of (by decide)⟩

theorem test_meets_TagWriteDiscarded :
    (inRun live).quietFor .a ∧ (inRun live).quietFor .b ∧ (inRun live).part.tagOpen .a 0 live .seq ∧
      (inRun live).part.tagOpen .b 0 live .fill ∧ TagWord.seq ≠ .control ∧ TagWord.fill ≠ .control :=
  ⟨quiet_of (by decide), quiet_of (by decide), open_of (by decide), open_of (by decide), by decide, by decide⟩

theorem test_meets_ControlWriteRefused :
    (inRun live).quietFor .a ∧ (inRun live).quietFor .b ∧ (inRun live).part.tagOpen .a 0 live .control ∧
      (inRun live).part.tagOpen .b 0 live .control ∧ (⟨true, false⟩ : Lanes) ≠ ⟨true, true⟩ ∧
      (live.geometry.producer = .a ∧ 0x0003#16 ≠ 0x0001#16 ∧ 0x0003#16 ≠ 0x0002#16) ∧
      (live.geometry.producer ≠ .b ∧ 0x0001#16 ≠ 0x0003#16) :=
  ⟨quiet_of (by decide), quiet_of (by decide), open_of (by decide), open_of (by decide), by decide, by decide, by decide⟩

theorem test_meets_Unpin :
    ((inRun live).quietFor .b ∧ (inRun live).part.tagOpen .b 0 live .control ∧ live.geometry.producer.other = .b ∧
      live.pin = none) ∧
    ((inRun { live with pin := some 0 }).quietFor .b ∧
      (inRun { live with pin := some 0 }).part.tagOpen .b 0 { live with pin := some 0 } .control) ∧
    ((inRun pinned).quietFor .b ∧ (inRun pinned).part.tagOpen .b 0 pinned .control ∧ pinned.pin ≠ none ∧
      pinned.ready = some ⟨.b2, 9#16, 1⟩) :=
  ⟨⟨quiet_of (by decide), open_of (by decide), by decide, by decide⟩, ⟨quiet_of (by decide), open_of (by decide)⟩,
    quiet_of (by decide), open_of (by decide), by decide, by decide⟩

/-- Line 1 written and not released. -/
def written : Service := { live with dirty := 2#64 }

/-- Line 0 stale in the back and in copy by the touch copier, whose write the stall limit has ended; channel 0 serves the
window without a line; line 1 written. -/
def oneInTouch : Service := { live with stale := ⟨0#64, 1#64, 0#64⟩, dirty := 2#64 }
def servedWithoutLine : State :=
  let s := busyWith (.ofTouch false 0x100#20 0#16 4) (working 0 (.serving 0 .catchUp none) (inRun oneInTouch))
  s.onPart { s.part with copy := { s.part.copy with
    touch := ⟨.copying 0 ⟨0, 0x100#20, 0x200#20, 0, .read⟩, 0#16⟩, queue := [⟨.a, 0, 0, true, true⟩] } }

theorem test_meets_Abandon :
    ((inRun live).quietFor .a ∧ (inRun live).part.tagOpen .a 0 live .control ∧ live.geometry.producer = .a ∧
      (inRun live).part.noChannelWaitsIn 0 ∧ live.backStale ||| live.dirty = 0#64) ∧
    (servedWithoutLine.quietFor .a ∧ servedWithoutLine.part.tagOpen .a 0 oneInTouch .control ∧
      (servedWithoutLine.part.channel 0).work = .serving 0 .catchUp none ∧
      (∀ d, d ≠ 0 → ∀ job, (servedWithoutLine.part.channel d).work ≠ .serving 0 job none) ∧
      lowestLine? ((oneInTouch.backStale ||| oneInTouch.dirty) &&& ~~~ servedWithoutLine.part.inCopyLines 0) = some 1) ∧
    ((allMasked (inRun written)).quietFor .a ∧ (allMasked (inRun written)).part.tagOpen .a 0 written .control ∧
      (allMasked (inRun written)).part.copyStatus 0 = .none ∧ written.backStale ||| written.dirty ≠ 0#64 ∧
      (allMasked (inRun written)).part.freeChannel? = none) ∧
    ((inRun written).quietFor .a ∧ (inRun written).part.tagOpen .a 0 written .control ∧
      (inRun written).part.copyStatus 0 = .none ∧ (inRun written).part.freeChannel? = some 0 ∧
      lowestLine? ((written.backStale ||| written.dirty) &&& ~~~ (inRun written).part.inCopyLines 0) = some 1) :=
  ⟨⟨quiet_of (by decide), open_of (by decide), by decide, noneIn_of (by decide), by decide⟩,
    ⟨quiet_of (by decide), open_of (by decide), by decide, fun d hd job => others_of (by decide) d hd job none, by decide⟩,
    ⟨quiet_of (by decide), open_of (by decide), by decide, by decide, by decide⟩,
    quiet_of (by decide), open_of (by decide), by decide, by decide, by decide⟩

/-- The hypotheses of all clauses; the clauses differ by whether the new back gains a line and whether a channel is free. -/
theorem test_meets_ExplicitReleaseAtOnce :
    ((inRun live).quietFor .a ∧ (inRun live).part.tagOpen .a 0 live .control ∧ live.rolesDistinct = true ∧
      live.backStale = 0#64 ∧ (inRun live).part.inCopyLines 0 = 0#64 ∧
      (live.ready = none ∧ Bank.b2 ≠ live.front ∧ Bank.b2 ≠ live.back) ∧ live.stale.get .b2 ||| live.dirty = 0#64) ∧
    ((inRun written).quietFor .a ∧ (inRun written).part.tagOpen .a 0 written .control ∧
      written.rolesDistinct = true ∧ written.backStale = 0#64 ∧ (inRun written).part.inCopyLines 0 = 0#64 ∧
      written.stale.get .b2 ||| written.dirty ≠ 0#64 ∧ (inRun written).part.copyStatus 0 = .none ∧
      (inRun written).part.freeChannel? = some 0 ∧
      lowestLine? (written.stale.get .b2 ||| written.dirty) = some 1) ∧
    ((allMasked (inRun written)).quietFor .a ∧ (allMasked (inRun written)).part.tagOpen .a 0 written .control ∧
      (allMasked (inRun written)).part.inCopyLines 0 = 0#64 ∧
      (allMasked (inRun written)).part.copyStatus 0 = .none ∧
      (allMasked (inRun written)).part.freeChannel? = none) :=
  ⟨⟨quiet_of (by decide), open_of (by decide), by decide, by decide, by decide, by decide, by decide⟩,
    ⟨quiet_of (by decide), open_of (by decide), by decide, by decide, by decide, by decide, by decide, by decide,
      by decide⟩,
    quiet_of (by decide), open_of (by decide), by decide, by decide, by decide⟩

/-- Window 0 waits, not promoted, every channel masked. -/
def waiting (promoted : Bool) : State :=
  let s := allMasked (inRun stale)
  s.onPart (s.part.setWaiting [⟨0, .catchUp, promoted⟩])

theorem test_meets_ExplicitReleasePending :
    ((waiting false).quietFor .a ∧ (waiting false).part.tagOpen .a 0 stale .control ∧
      (waiting false).part.waitingOk = true ∧ stale.backStale ≠ 0#64 ∧
      (⟨0, .catchUp, false⟩ : WaitEntry) ∈ (waiting false).part.copy.waiting) ∧
    ((waiting true).quietFor .a ∧ (waiting true).part.tagOpen .a 0 stale .control ∧
      (waiting true).part.waitingOk = true ∧
      ∀ e ∈ (waiting true).part.copy.waiting, e.window = 0 → e.promoted = true) :=
  ⟨⟨quiet_of (by decide), open_of (by decide), by decide, by decide, by decide⟩, quiet_of (by decide),
    open_of (by decide), by decide, by decide⟩

/-! ## Memory accesses that complete -/

/-- Port `q` reads or writes the word 0x105 of bank 0, granted. -/
def granted (q : Port) (write : Bool) : State :=
  busyWith (.ofPort q write 0x105#20 Lanes.both 0#16 4) (holding q (held write (.granted .passThrough)) (inRun live))

theorem test_meets_PortReadCompletes :
    let s := granted .b false
    s.part.arbiter.access = some (.ofPort .b false 0x105#20 Lanes.both 0#16 4) ∧ s.part.softReset = .none ∧
      s.part.atRest = true ∧ s.part.onlyPortActive .b ∧ s.sramTime ≤ 4 :=
  ⟨by decide, by decide, by decide, onlyPort_of (by decide), by decide⟩

theorem test_meets_PortWriteCompletes :
    let s := granted .a true
    s.part.arbiter.access = some (.ofPort .a true 0x105#20 Lanes.both 0#16 4) ∧ s.part.softReset = .none ∧
      s.part.atRest = true ∧ s.part.onlyPortActive .a ∧ s.mem.wf = true :=
  ⟨by decide, by decide, by decide, onlyPort_of (by decide), by decide⟩

/-- The read half of a pair under write mask 0x00FF. -/
def pairRead : MemAccess :=
  { requestor := .port .a, write := false, addr := 0x204#20, lanes := ⟨true, true⟩, data := 0#16
    kind := .pairRead 0x00FF#16, time := 4 }

theorem test_meets_PairWriteHalfBegins :
    let a := held true (.granted (.producerWrite 0 true))
    let s := busyWith pairRead (holding .a a (inRun live))
    s.part.arbiter.access = some pairRead ∧ s.part.accessOf .a = some a ∧ s.sramTime ≤ pairRead.time ∧
      ((0x00FF#16).getLsbD 7 = true ∧ a.lanes.lower = true) ∧ (0x00FF#16).getLsbD 8 = false := by
  decide

/-- Channel 0 copies line 0, its read or its write of a word under way. -/
def copying (sv : Service) (job : Job) (cp : LineCopy) : State :=
  busyWith (.ofChannel 0 (decide (cp.half = .write)) (cp.target + BitVec.ofNat 20 cp.word.val) 0#16 4)
    (working 0 (.serving 0 job (some cp)) (inRun sv))

/-- The touch copier copies line 0 for port A's held write, its read or its write of a word under way. -/
def touchAt (sv : Service) (ended : Bool) (word : Fin 16) (half : Half) : State :=
  let s := busyWith (.ofTouch (decide (half = .write)) (0x200#20 + BitVec.ofNat 20 word.val) 0#16 4) (inRun sv)
  let t := if ended then s else holding .a (held true (.stalled (.touchWait 0 0) 3)) s
  t.onPart { t.part with copy := { t.part.copy with
    touch := ⟨.copying 0 (copyAt word half), 0#16⟩, queue := [⟨.a, 0, 0, true, ended⟩] } }

theorem test_meets_CopiersMoveOneWord :
    (let s := copying stale .catchUp (copyAt 0 .read);
      s.part.softReset = .none ∧ s.part.atRest = true ∧ s.part.onlyChannelActive 0 ∧ s.mem.wf = true ∧
        (s.part.channel 0).work.lineCopy? = some (copyAt 0 .read)) ∧
    (let s := copying stale .catchUp (copyAt 14 .write);
      s.part.softReset = .none ∧ s.part.atRest = true ∧ s.part.onlyChannelActive 0 ∧ s.mem.wf = true ∧
        (s.part.channel 0).work.lineCopy? = some (copyAt 14 .write)) ∧
    (let s := touchAt stale false 0 .read;
      s.part.softReset = .none ∧ s.part.atRest = true ∧ s.mem.wf = true ∧
        s.part.copy.touch.work.lineCopy? = some (copyAt 0 .read)) ∧
    (let s := touchAt stale false 14 .write;
      s.part.softReset = .none ∧ s.part.atRest = true ∧ s.mem.wf = true ∧
        s.part.copy.touch.work.lineCopy? = some (copyAt 14 .write)) :=
  ⟨⟨by decide, by decide, onlyChannel_of (by decide), by decide, by decide⟩,
    ⟨by decide, by decide, onlyChannel_of (by decide), by decide, by decide⟩, by decide, by decide⟩

/-- Only line 0 stale in the back. -/
def oneStale : Service := { live with stale := ⟨0#64, 1#64, 0#64⟩ }

theorem test_meets_CatchUpLineEnds :
    let s := copying stale .catchUp (copyAt 15 .write)
    let t := copying oneStale .catchUp (copyAt 15 .write)
    (s.part.atRest = true ∧ s.part.onlyChannelActive 0 ∧ s.part.service 0 = some stale ∧
      s.part.copy.queue = [] ∧ s.part.copy.waiting = [] ∧ 0x200#20 = stale.geometry.base stale.back ∧
      (∀ d, d ≠ 0 → ∀ job cp, (s.part.channel d).work ≠ .serving 0 job cp) ∧ (∀ q, s.part.accessOf q = none) ∧
      (s.part.channel 0).masked = false ∧ lowestLine? (stale.backStale &&& ~~~ BitVec.twoPow 64 0) = some 1) ∧
    (t.part.atRest = true ∧ t.part.onlyChannelActive 0 ∧ t.part.service 0 = some oneStale ∧
      (∀ d, d ≠ 0 → ∀ job cp, (t.part.channel d).work ≠ .serving 0 job cp) ∧ (∀ q, t.part.accessOf q = none) ∧
      oneStale.backStale &&& ~~~ BitVec.twoPow 64 0 = 0#64) :=
  ⟨⟨by decide, onlyChannel_of (by decide), by decide, by decide, by decide, by decide, others_of (by decide),
      noAccess_of (by decide), by decide, by decide⟩,
    by decide, onlyChannel_of (by decide), by decide, others_of (by decide), noAccess_of (by decide), by decide⟩

/-- The same with a release pending, a line written and not released, or a reader held behind it. -/
def owed (written : LineSet) : Service := { oneStale with releasePending := true, dirty := written }
def owing (written : LineSet) : State := copying (owed written) .catchUp (copyAt 15 .write)
def owingRead : State := holding .a (held false (.stalled (.releasePending 0) 2)) (owing 0#64)
def owingMasked : State :=
  let s := allMasked (owing 2#64)
  s.onPart (s.part.setChannel 0 ⟨.serving 0 .catchUp (some (copyAt 15 .write)), true, 0#16⟩)

theorem test_meets_PendingReleasePerformed :
    ((owed 2#64).retiring = false ∧ (owed 2#64).rolesDistinct = true ∧
      (owed 2#64).backStale &&& ~~~ BitVec.twoPow 64 0 = 0#64 ∧
      ((owed 2#64).ready = none ∧ Bank.b2 ≠ (owed 2#64).front ∧ Bank.b2 ≠ (owed 2#64).back)) ∧
    ((owing 0#64).part.atRest = true ∧ (owing 0#64).part.service 0 = some (owed 0#64) ∧
      (owing 0#64).part.copy.waiting = [] ∧ (owing 0#64).part.onlyChannelActive 0 ∧ (owed 0#64).stale.get .b2 ||| (owed 0#64).dirty = 0#64 ∧
      ∀ q, (owing 0#64).part.accessOf q = none) ∧
    (owingRead.part.atRest = true ∧ owingRead.part.onlyChannelActive 0 ∧
      owingRead.part.accessOf .a = some (held false (.stalled (.releasePending 0) 2)) ∧
      owingRead.part.logicalOf 0 (owed 0#64) 0x104#20 ∧ owingRead.part.noTagWord 0 (owed 0#64) 0x104#20 ∧
      owingRead.part.accessOf .b = none) ∧
    ((owing 2#64).part.atRest = true ∧ lowestLine? ((owed 2#64).stale.get .b2 ||| (owed 2#64).dirty) = some 1 ∧
      ((owing 2#64).part.setChannelWork 0 .idle).freeChannel? = some 0 ∧ owingMasked.part.atRest = true ∧
      (owingMasked.part.setChannelWork 0 .idle).freeChannel? = none) :=
  ⟨by decide, ⟨by decide, by decide, by decide, onlyChannel_of (by decide), by decide, noAccess_of (by decide)⟩,
    ⟨by decide, onlyChannel_of (by decide), by decide, logical_of (by decide), .inr (by decide), by decide⟩, by decide⟩

/-- RETIRING with line 0 of bank 0 left to copy. -/
def lastHome : Service := { retiring with stale := ⟨1#64, 0#64, 0#64⟩ }

/-- Channel 0 writes the last word of the last line of the RETIRE job. -/
def homing (state : OpState) : State :=
  let s := copying lastHome .retire ⟨0, 0x200#20, 0x100#20, 15, .write⟩
  s.onPart { s.part with opState := state }

/-- The same, with a port's access of the window in the RETIRING stall. -/
def homingHeld (state : OpState) (q : Port) : State :=
  holding q (held true (.stalled (.retiring 0) 3)) (homing state)

theorem test_meets_RetireCompletes :
    (homing .run).part.atRest = true ∧ (homing .run).part.onlyChannelActive 0 ∧
      (homing .run).part.service 0 = some lastHome ∧ lastHome.geometry.logicalBase = 0x100#20 ∧
      lastHome.stale.b0 &&& ~~~ BitVec.twoPow 64 0 = 0#64 ∧
      (∀ d, d ≠ 0 → ∀ job cp, ((homing .run).part.channel d).work ≠ .serving 0 job cp) ∧
      (∀ q, (homing .run).part.accessOf q = none) ∧ (homing .run).part.opState = .run ∧
      (homing .stopping).part.atRest = true ∧ (homing .stopping).part.onlyChannelActive 0 ∧
      (homing .stopping).part.opState = .stopping ∧ ∀ v, v ≠ 0 → (homing .stopping).part.service v = none :=
  ⟨by decide, onlyChannel_of (by decide), by decide, by decide, by decide, others_of (by decide),
    noAccess_of (by decide), by decide, by decide, onlyChannel_of (by decide), by decide, by decide⟩

theorem test_meets_RetireCompletes_held :
    (let s := homingHeld .stopping .a;
      s.part.atRest = true ∧ s.part.onlyChannelActive 0 ∧
        s.part.accessOf .a = some (held true (.stalled (.retiring 0) 3)) ∧ s.part.accessOf .b = none ∧
        s.part.noOtherHolds 0 0x104#20) ∧
    (let s := holding .a (held true (.stalled (.retiring 0) 3)) (homingHeld .run .b);
      s.part.atRest = true ∧ s.part.onlyChannelActive 0 ∧
        s.part.accessOf .b = some (held true (.stalled (.retiring 0) 3)) ∧
        s.part.accessOf .a = some (held true (.stalled (.retiring 0) 3)) ∧ s.part.noOtherHolds 0 0x104#20 ∧
        s.part.arbiter.lastPort = Port.b.other) :=
  ⟨⟨by decide, onlyChannel_of (by decide), by decide, by decide, noOther_of (by decide)⟩,
    by decide, onlyChannel_of (by decide), by decide, by decide, noOther_of (by decide), by decide⟩

/-- Port A's write held behind the touch copy of line 0: another line stale; none, with the window waiting; none, with
channel 1 serving it without a line; the window RETIRING; and the write ended. -/
def touchedWaiting (sv : Service) (job : Job) (ended : Bool) : State :=
  let s := allMasked (inRun sv)
  let t := touchAt sv ended 15 .write
  t.onPart { t.part with copy := { t.part.copy with channels := s.part.copy.channels, waiting := [⟨0, job, false⟩] } }
def touchedServed : State :=
  working 1 (.serving 0 .catchUp none) (touchAt oneStale false 15 .write)
def homeTouch : Service := { stale with stale := ⟨3#64, 3#64, 0#64⟩, front := .b2, retiring := true }

theorem test_meets_TouchCopyEnds :
    (let s := touchedWaiting stale .catchUp false;
      s.part.atRest = true ∧ s.part.onlyTouchActive ∧ s.part.service 0 = some stale ∧ s.part.noChannelWaitsIn 0 ∧
        s.part.accessOf .a = some (held true (.stalled (.touchWait 0 0) 3)) ∧ s.part.accessOf .b = none ∧
        s.part.logicalOf 0 stale 0x104#20 ∧ s.part.noTagWord 0 stale 0x104#20 ∧
        stale.backStale &&& ~~~ BitVec.twoPow 64 0 ≠ 0#64 ∧ s.part.jobOf 0 ≠ some .retire ∧
        (s.part.liveOf 0).writeMask = 0xFFFF#16) ∧
    (let s := touchedWaiting oneStale .catchUp false;
      s.part.atRest = true ∧ s.part.onlyTouchActive ∧ oneStale.backStale &&& ~~~ BitVec.twoPow 64 0 = 0#64 ∧
        s.part.servedBy 0 = none ∧ (∃ e ∈ s.part.copy.waiting, e.window = 0 ∧ e.job = .catchUp) ∧
        s.part.waitingOk = true) ∧
    (touchedServed.part.atRest = true ∧ touchedServed.part.onlyTouchActive ∧
      (touchedServed.part.channel 1).work = .serving 0 .catchUp none ∧ touchedServed.part.copy.waiting = [] ∧
      touchedServed.part.waitingOk = true) ∧
    (let s := touchedWaiting homeTouch .retire false;
      s.part.atRest = true ∧ s.part.onlyTouchActive ∧ s.part.service 0 = some homeTouch ∧ homeTouch.retiring = true ∧
        s.part.noChannelWaitsIn 0 ∧ s.part.jobOf 0 = some .retire) ∧
    (let s := touchedWaiting stale .catchUp true;
      s.part.atRest = true ∧ s.part.onlyTouchActive ∧ s.part.jobOf 0 = some .catchUp ∧
        ∀ q, s.part.accessOf q = none) ∧
    (let s := touchedWaiting homeTouch .retire true;
      s.part.atRest = true ∧ s.part.onlyTouchActive ∧ s.part.jobOf 0 = some .retire ∧
        ∀ q, s.part.accessOf q = none) :=
  ⟨⟨by decide, onlyTouch_of (by decide), by decide, noneIn_of (by decide), by decide, by decide, logical_of (by decide),
      .inr (by decide), by decide, by decide, by decide⟩,
    ⟨by decide, onlyTouch_of (by decide), by decide, by decide, by decide, by decide⟩,
    ⟨by decide, onlyTouch_of (by decide), by decide, by decide, by decide⟩,
    ⟨by decide, onlyTouch_of (by decide), by decide, by decide, noneIn_of (by decide), by decide⟩,
    ⟨by decide, onlyTouch_of (by decide), by decide, noAccess_of (by decide)⟩,
    by decide, onlyTouch_of (by decide), by decide, noAccess_of (by decide)⟩

/-- A channel drains a line of window 1, that is OFF, while window 0 waits or does not; the touch copier does, with an
entry of window 0 queued or none. -/
def drainedBy (c : Chan) (masked : Bool) (waiting : List WaitEntry) : State :=
  let s := busyWith (.ofChannel c true 0x50F#20 0#16 4) (allMasked (inRun stale))
  s.onPart ((s.part.setChannel c ⟨.draining 1 ⟨0, 0x400#20, 0x500#20, 15, .write⟩, masked, 0#16⟩).setWaiting waiting)
def touchDrains (queue : List TouchEntry) : State :=
  let s := busyWith (.ofTouch true 0x50F#20 0#16 4) (inRun stale)
  s.onPart ((s.part.withTouch ⟨.draining 1 ⟨0, 0x400#20, 0x500#20, 15, .write⟩, 0#16⟩).setQueue queue)

theorem test_meets_DrainEnds :
    ((drainedBy 2 true [⟨0, .catchUp, false⟩]).part.atRest = true ∧
      (drainedBy 2 true [⟨0, .catchUp, false⟩]).part.onlyChannelActive 2) ∧
    ((drainedBy 2 false [⟨0, .catchUp, false⟩]).part.atRest = true ∧
      (drainedBy 2 false [⟨0, .catchUp, false⟩]).part.onlyChannelActive 2 ∧
      (drainedBy 2 false [⟨0, .catchUp, false⟩]).part.waitingOk = true ∧
      lowestLine? (stale.stale.get stale.back) = some 0) ∧
    ((touchDrains []).part.atRest = true ∧ (touchDrains []).part.onlyTouchActive) ∧
    ((touchDrains [⟨.a, 0, 1, false, false⟩]).part.atRest = true ∧
      lineIn ((touchDrains [⟨.a, 0, 1, false, false⟩]).part.inCopyLines 0) 1 = false ∧
      (touchDrains [⟨.a, 0, 1, false, false⟩]).part.service 0 = some stale) :=
  ⟨⟨by decide, onlyChannel_of (by decide)⟩, ⟨by decide, onlyChannel_of (by decide), by decide, by decide⟩,
    ⟨by decide, onlyTouch_of (by decide)⟩, by decide⟩

/-! ## Ticks, stalls and boundaries -/

/-- A timer at a count. -/
def at' (source : Source) (sync : SyncState) (count : Nat) : Timer :=
  { Timer.reset with running := true, source := source, sync := sync, count := count }

theorem test_meets_TickCounts :
    State.reset.part.timer.running = false ∧ (at' .internal .locked 248).noBoundaryNext ∧
      (at' .external .locked 256).noBoundaryNext ∧ (at' .external .flywheel 248).noBoundaryNext ∧
      (at' .command .locked 65535).noBoundaryNext ∧ (inRun live).part.noTimeoutNext .a ∧
      (inRun live).part.noTimeoutNext .b ∧ (inRun live).part.timer.running = true :=
  ⟨by decide, .inr (.inl (by decide)), .inr (.inr (.inl (by decide))), .inr (.inr (.inr (by decide))), .inl rfl,
    noTimeout_of (by decide), noTimeout_of (by decide), by decide⟩

/-- Port A in a stall for one tick, the stall limit at `limit`. -/
def stalled (limit : Nat) (st : Stall) : State :=
  let s := holding .a (held true (.stalled st 1)) (inRun pending)
  s.onPart { s.part with stallLimit := limit }

theorem test_meets_StallLimitReached :
    (let s := stalled 2 (.releasePending 0);
      s.part.accessOf .a = some (held true (.stalled (.releasePending 0) 1)) ∧ s.part.timer.running = true ∧
        s.part.timer.noBoundaryNext ∧ s.part.noTimeoutNext .b ∧ s.part.softReset ≠ .draining ∧ 0 < s.part.stallLimit ∧
        s.part.stallLimit ≤ 1 + 1) ∧
    (let t := stalled 1 (.touchWait 0 0);
      t.part.accessOf .a = some (held true (.stalled (.touchWait 0 0) 1)) ∧ 0 < t.part.stallLimit ∧
        t.part.stallLimit ≤ 1 + 1) ∧
    ((stalled 3 (.releasePending 0)).part.noTimeoutNext .a ∧ (stalled 0 (.releasePending 0)).part.noTimeoutNext .a ∧
      (inRun live).part.noTimeoutNext .a ∧ State.reset.part.timer.running = false) :=
  ⟨⟨by decide, by decide, .inr (.inl (by decide)), noTimeout_of (by decide), by decide, by decide, by decide⟩,
    by decide,
    fun _ _ _ h hp => by
      obtain rfl : held true (.stalled (.releasePending 0) 1) = _ := Option.some.inj h
      obtain ⟨rfl, rfl⟩ := Phase.stalled.inj hp
      exact .inr (.inr (by decide)),
    fun _ _ _ _ _ => .inr (.inl (by decide)), noTimeout_of (by decide), by decide⟩

/-- STOPPING with window 0 RETIRING, every channel masked. -/
def stoppingQuiet (t : Timer) : State :=
  let s := allMasked (timed t (inRun retiring))
  s.onPart { s.part with opState := .stopping }

theorem stoppingQuiet_retiring {t : Timer} :
    ∀ w sv, (stoppingQuiet t).part.service w = some sv → sv.retiring = true := by
  intro w sv h
  have hv : ∀ v : Win, v ≠ 0 → (stoppingQuiet t).part.service v = none :=
    show ∀ v : Win, v ≠ 0 → (stoppingQuiet Timer.reset).part.service v = none by decide
  by_cases hw : w = 0
  · subst hw
    obtain rfl : retiring = sv := Option.some.inj h
    rfl
  · rw [hv w hw] at h
    cases h

theorem test_meets_CountMakesBoundary :
    (running live desc).opState = .run ∧
      ((at' .internal .locked 249).running = true ∧ (at' .internal .locked 249).source = .internal ∧
        (at' .internal .locked 249).period ≤ 249 + 1) ∧
      ((at' .external .flywheel 249).running = true ∧ (at' .external .flywheel 249).sync = .flywheel ∧
        (at' .external .flywheel 249).period ≤ 249 + 1) ∧
      ((at' .external .locked 257).running = true ∧ (at' .external .locked 257).sync = .locked ∧
        (at' .external .locked 257).period + (at' .external .locked 257).guardTicks ≤ 257 + 1) ∧
      ((stoppingQuiet (at' .internal .locked 249)).part.opState = .stopping ∧
        (∀ w sv, (stoppingQuiet (at' .internal .locked 249)).part.service w = some sv → sv.retiring = true) ∧
        (stoppingQuiet (at' .internal .locked 249)).part.atRest = true ∧
        (stoppingQuiet (at' .internal .locked 249)).part.noIdleRequest = true ∧
        (stoppingQuiet (at' .internal .locked 249)).part.noTimeoutNext .a ∧
        (stoppingQuiet (at' .internal .locked 249)).part.noTimeoutNext .b) ∧
      ¬ (at' .internal .locked 248).period ≤ 248 + 1 :=
  ⟨by decide, by decide, by decide, by decide,
    ⟨by decide, stoppingQuiet_retiring, by decide, by decide, noTimeout_of (by decide), noTimeout_of (by decide)⟩,
    by decide⟩

/-- A boundary that a state in RUN makes reaches its window's record: nothing waits, the list is empty. -/
theorem test_meets_boundaryMade :
    (inRun written).part.atRest = true ∧ (inRun written).part.noIdleRequest = true ∧
      (inRun written).part.waitingOk = true ∧ (inRun written).part.copy.waiting = [] ∧
      ∀ q, (inRun written).part.accessOf q = none :=
  ⟨by decide, by decide, by decide, by decide, noAccess_of (by decide)⟩

theorem test_meets_SyncInEdge :
    (at' .internal .locked 5).source ≠ .external ∧
      ((at' .external .locked 1).sync = .locked ∧ (at' .external .locked 1).count ≤ 1) ∧
      ((at' .external .locked 2).sync = .locked ∧ 1 < (at' .external .locked 2).count) ∧
      ((at' .external .flywheel 8).sync = .flywheel ∧
        (at' .external .flywheel 8).count ≤ (at' .external .flywheel 8).guardTicks) ∧
      ((at' .external .flywheel 9).sync = .flywheel ∧
        (at' .external .flywheel 9).guardTicks < (at' .external .flywheel 9).count) ∧
      (stoppingQuiet (at' .external .locked 2)).part.atRest = true := by
  decide

/-- The part in RUN, window 0 in service and window 1 staged with its logical range at `base`; `d` is staged for window 0. -/
def stagedUnder (sv : Service) (d : Descriptor) (base : Addr) (mark : BitVec 16) : Part :=
  let p := running sv desc
  { p with staging := { p.staging with
      staged := (p.staging.staged.set 0 d).set 1
        { desc with logicalBase := base, bank1Base := 0x800#20, bank2Base := 0x900#20 }
      changed := mark } }

/-- The same with window 0 staged as it is live. -/
def staged (sv : Service) (base : Addr) (mark : BitVec 16) : Part := stagedUnder sv desc base mark

theorem test_meets_BoundaryReachesEachWindow :
    ((staged live 0x120#20 2#16).service 1 = none ∧ (staged live 0x120#20 2#16).applyAttempt.2.getLsbD 1 = true ∧
      (staged live 0x120#20 2#16).applyAttempt.1.live[(1 : Win)].enable = true ∧
      (staged live 0x120#20 2#16).service 2 = none ∧ (staged live 0x120#20 2#16).applyAttempt.2.getLsbD 2 = false) ∧
    ((staged retiring 0x120#20 2#16).service 0 = some retiring ∧ retiring.retiring = true) ∧
    ((staged live 0x120#20 2#16).service 0 = some live ∧ (staged live 0x120#20 2#16).applyAttempt.2.getLsbD 0 = false) ∧
    ((stagedUnder live { desc with enable := false } 0x120#20 1#16).applyAttempt.2.getLsbD 0 = true ∧
      (stagedUnder live { desc with enable := false } 0x120#20 1#16).applyAttempt.1.live[(0 : Win)].enable = false) ∧
    ((staged live 0x120#20 1#16).applyAttempt.2.getLsbD 0 = true ∧
      0 < (staged live 0x120#20 1#16).applyAttempt.1.live[(0 : Win)].pinLimit ∧
      (staged live 0x120#20 1#16).applyAttempt.1.live[(0 : Win)].tags = true) ∧
    ((stagedUnder pinned { desc with pinLimit := 0 } 0x120#20 1#16).applyAttempt.2.getLsbD 0 = true ∧
      (stagedUnder pinned { desc with pinLimit := 0 } 0x120#20 1#16).applyAttempt.1.live[(0 : Win)].pinLimit = 0) := by
  decide +kernel

theorem test_meets_EnableAtBoundaryJoinsAndClearsNotices :
    (staged live 0x120#20 2#16).service 1 = none ∧ (staged live 0x120#20 2#16).applyAttempt.2.getLsbD 1 = true ∧
      (staged live 0x120#20 2#16).applyAttempt.1.live[(1 : Win)].enable = true ∧
      (staged live 0x120#20 2#16).copyStatus 1 = .none := by decide +kernel

/-- The descriptor under BOUNDARY policy. -/
def cyclic : Descriptor := { desc with policy := .boundary, tags := false, pinLimit := 0 }

/-- The same with the pin limit of `desc`, and with skip empty. -/
def cyclicPinned : Descriptor := { desc with policy := .boundary }
def cyclicSkip : Descriptor := { cyclicPinned with skipEmpty := true }

/-- A ready image over a back that is behind, or that is not; a pinned window with writes to release. -/
def staleReady : Service := { stale with ready := some ⟨.b2, 9#16, 1⟩ }
def liveReady : Service := { live with ready := some ⟨.b2, 9#16, 1⟩ }
def writtenPinned (age : Nat) : Service := { written with pin := some age }

theorem test_meets_BoundaryStepOne :
    ((running stale cyclic).service 0 = some stale ∧ ((running stale cyclic).liveOf 0).policy = .boundary ∧
      stale.pin = none ∧ stale.backStale ≠ 0#64 ∧ stale.ready = none) ∧
    ((running live { cyclic with skipEmpty := true }).service 0 = some live ∧
      ((running live { cyclic with skipEmpty := true }).liveOf 0).skipEmpty = true ∧ live.dirty = 0#64 ∧
      live.releasePending = false ∧ live.backStale = 0#64 ∧
      (running live { cyclic with skipEmpty := true }).inCopyLines 0 = 0#64) ∧
    ((running written cyclic).service 0 = some written ∧ ((running written cyclic).liveOf 0).skipEmpty = false ∧
      written.backStale = 0#64 ∧ (running written cyclic).inCopyLines 0 = 0#64 ∧ written.rolesDistinct = true ∧
      written.ready = none ∧ Bank.b2 ≠ written.front ∧ Bank.b2 ≠ written.back) := by
  decide

theorem test_meets_BoundaryStepOne_ready_or_pinned :
    ((running staleReady cyclic).service 0 = some staleReady ∧ staleReady.backStale ≠ 0#64 ∧ staleReady.pin = none) ∧
    ((running liveReady cyclicSkip).service 0 = some liveReady ∧ ((running liveReady cyclicSkip).liveOf 0).skipEmpty = true ∧
      liveReady.dirty = 0#64 ∧ liveReady.backStale = 0#64 ∧ (running liveReady cyclicSkip).inCopyLines 0 = 0#64 ∧
      liveReady.pin = none) ∧
    ((running (writtenPinned 1) cyclicPinned).service 0 = some (writtenPinned 1) ∧
      ((running (writtenPinned 1) cyclicPinned).liveOf 0).pinLimit ≤ 1 + 1 ∧ (writtenPinned 1).rolesDistinct = true) ∧
    ((running (writtenPinned 0) cyclicPinned).service 0 = some (writtenPinned 0) ∧
      0 + 1 < ((running (writtenPinned 0) cyclicPinned).liveOf 0).pinLimit) := by
  decide

theorem test_meets_BoundaryPinFlipAndAge :
    ((running live desc).service 0 = some live ∧ ((running live desc).liveOf 0).policy = .explicit ∧
      live.pin = none ∧ live.ready = none) ∧
    ((running { pinned with pin := none } desc).service 0 = some { pinned with pin := none } ∧
      pinned.ready = some ⟨.b2, 9#16, 1⟩) ∧
    (0 + 1 < ((running { live with pin := some 0 } desc).liveOf 0).pinLimit) ∧
    (((running { live with pin := some 1 } desc).liveOf 0).pinLimit ≤ 1 + 1) ∧
    (pinned.pin = some 1 ∧ ((running pinned desc).liveOf 0).pinLimit ≤ 1 + 1) := by
  decide

/-- The premises of an overrun and of a skip, pinned at the limit and below it. -/
theorem test_meets_BoundaryPinFlipAndAge_boundary :
    (((running { staleReady with pin := some 1 } cyclicPinned).liveOf 0).policy = .boundary ∧
      { staleReady with pin := some 1 }.backStale ≠ 0#64 ∧
      ((running { staleReady with pin := some 1 } cyclicPinned).liveOf 0).pinLimit ≤ 1 + 1) ∧
    (((running { liveReady with pin := some 0 } cyclicSkip).liveOf 0).skipEmpty = true ∧
      { liveReady with pin := some 0 }.dirty = 0#64 ∧ { liveReady with pin := some 0 }.releasePending = false ∧
      { liveReady with pin := some 0 }.backStale = 0#64 ∧
      (running { liveReady with pin := some 0 } cyclicSkip).inCopyLines 0 = 0#64 ∧
      0 + 1 < ((running { liveReady with pin := some 0 } cyclicSkip).liveOf 0).pinLimit) := by
  decide

theorem test_meets_ApplyAttempt :
    ¬ ((running live desc).staging.changed ≠ 0#16) ∧
      ((staged retiring 0x700#20 1#16).opState = .run ∧ (staged retiring 0x700#20 1#16).staging.hold = false ∧
        (staged retiring 0x700#20 1#16).staging.rejected = false ∧ (staged retiring 0x700#20 1#16).staging.changed ≠ 0#16 ∧
        (staged retiring 0x700#20 1#16).staging.changed.getLsbD 0 = true ∧
        (staged retiring 0x700#20 1#16).service 0 = some retiring) ∧
      ((staged live 0x110#20 2#16).staging.changed ≠ 0#16 ∧ ¬ spansDisjoint (staged live 0x110#20 2#16).spansAtBoundary) ∧
      ((staged live 0x120#20 2#16).staging.changed ≠ 0#16 ∧ spansDisjoint (staged live 0x120#20 2#16).spansAtBoundary) := by
  decide

theorem test_meets_RetireOutcome :
    ((running live desc).service 0 = some live ∧ live.retiring = false ∧
      (live.stale.set live.back (live.backStale ||| live.dirty)).b0 = 0#64) ∧
    ((running pinned desc).service 0 = some pinned ∧ pinned.ready.isSome = true ∧ pinned.retiring = false) ∧
    ((running { live with stale := ⟨1#64, 0#64, 0#64⟩, front := .b1, back := .b2 } desc).service 0 =
        some { live with stale := ⟨1#64, 0#64, 0#64⟩, front := .b1, back := .b2 } ∧
      ((⟨1#64, 0#64, 0#64⟩ : PerBank LineSet).set .b2 (0#64 ||| 0#64)).b0 ≠ 0#64) ∧
    (touching.part.copy.touch.work = .copying 0 ⟨1, 0x100#20, 0x200#20, 0, .read⟩ ∧
      (servedWithoutLine.part.channel 0).work = .serving 0 .catchUp none ∧
      ((copying stale .catchUp (copyAt 0 .read)).part.channel 0).work = .serving 0 .catchUp (some (copyAt 0 .read)) ∧
      ({ (inRun stale).part.copy with deferred := ⟨some (0, 1), some (3, 0)⟩ } : CopyEngine).deferred.get .a =
        some (0, 1)) := by
  decide

/-! ## The management link -/

/-- A frame is being shifted. -/
def shifting (f : Frame) (s : State) : State := { s with link := { s.link with frame := .shifting f } }

theorem test_meets_LinkFramesRoundTrip :
    judgeFrame [0x20#8] [] = .taken .run ∧ judgeFrame [0x00#8, 0x00#8] [] = .taken .nop := by decide

theorem test_meets_FramesOnTheWireAndUntakenFrames_bits :
    State.reset.link.frame = .idle ∧ ({ State.reset with powerHold := true } : State).held = true ∧
      ((shifting ⟨[], [true], [], 0⟩ State.reset).held = false ∧ [true].length < 7) ∧
      [true, true, false, false, true, false, true].length = 7 := by decide

theorem test_meets_FramesOnTheWireAndUntakenFrames_ends :
    State.reset.takesFrames = true ∧ State.reset.link.frame = .idle ∧ State.reset.frameGives .nop = true ∧
      (shifting ⟨[0x99#8], [], [], 8⟩ State.reset).takesFrames = true ∧ parseFrame [0x99#8] = none ∧
      (shifting ⟨[], [true], [], 1⟩ State.reset).takesFrames = true ∧
      ({ State.reset with resetLow := true } : State).takesFrames = false ∧
      (State.reset.onPart { Part.reset with softReset := .draining }).takesFrames = false := by decide

/-- A frame that gives any command at all: the frame is given whole, in STANDBY, in RUN and in STOPPING. -/
theorem test_meets_frameGives (c : LinkCommand) :
    State.reset.frameGives c = true ∧ (inRun live).frameGives c = true ∧ (homing .stopping).frameGives c = true ∧
      State.reset.part.opState = .standby ∧ (inRun live).part.opState = .run ∧
      (homing .stopping).part.opState = .stopping :=
  ⟨rfl, rfl, rfl, rfl, rfl, rfl⟩

theorem test_meets_shifted_frame : (shifting ⟨[0x51#8, 0x01#8], [], [], 16⟩ State.reset).frameGives (.poll 1) = true := by
  decide

/-- A descriptor image at the ends of its ranges, and one that ends beyond the memory. -/
def edgeImage : DescriptorImage := ⟨0x17#8, 0xFFC00#24, 64#8, 0x00000#24, 0x00400#24, 15#8, 0x0000#16⟩
def beyond : DescriptorImage := { edgeImage with logicalBase := 0xFFC10#24 }

theorem test_meets_SetWindow :
    FieldChecks edgeImage ∧ ¬ FieldChecks beyond ∧ ¬ FieldChecks { edgeImage with pinLimit := 16#8 } ∧
      ¬ FieldChecks { edgeImage with length := 65#8 } ∧ ¬ FieldChecks { edgeImage with length := 0#8 } ∧
      ((inRun live).part.service 0 ≠ none ∧ (inRun live).part.live[(0 : Win)].enable = true ∧
        (imageDescriptor edgeImage).enable = true ∧
        (imageDescriptor edgeImage).length ≠ (inRun live).part.live[(0 : Win)].length) ∧
      (inRun live).part.service 15 = none :=
  ⟨by unfold FieldChecks; decide, fun h => absurd h.2.2.2.1 (by decide),
    fun h => absurd h.2.2.2.2.2.2.2.2.1 (by decide), fun h => absurd h.2.2.2.2.2.2.2.1 (by decide),
    fun h => absurd h.2.2.2.2.2.2.1 (by decide), by decide, by decide⟩

theorem test_meets_StatusChannelAndWindowReplies : (3 : Chan).val = (3#8).toNat ∧ 3 < (4#8).toNat ∧
    (15 : Win).val = (15#8).toNat ∧ (1#8).toNat ≤ 1 ∧ 15 < (16#8).toNat ∧ 1 < (2#8).toNat ∧
    desc.length ≤ 64 ∧ desc.pinLimit ≤ 15 := by decide

theorem test_meets_GetWindowState :
    ((inRun live).part.record 15).service = none ∧
      (((inRun pinned).part.record 0).service = some pinned ∧ pinned.rolesDistinct = true ∧
        (∀ k, pinned.pin = some k → k ≤ 15) ∧ pinned.ready ≠ none) ∧
      (((inRun live).part.record 0).service = some live ∧ live.rolesDistinct = true ∧ live.ready = none ∧
        ∀ k : Bank, k ≠ live.front ∧ k ≠ live.back → k = .b2) :=
  ⟨by decide, ⟨by decide, by decide, fun k h => by obtain rfl : 1 = k := Option.some.inj h; decide, by decide⟩,
    by decide, by decide, by decide, fun k h => by cases k <;> revert h <;> decide⟩

/-- STANDBY with window 0 staged; and with window 1 staged over it. -/
def toRun (base : Addr) : State :=
  State.reset.onPart { Part.reset with staging := { Staging.reset with
    staged := (Staging.reset.staged.set 0 desc).set 1
      { desc with logicalBase := base, bank1Base := 0x800#20, bank2Base := 0x900#20 } } }

theorem test_meets_RunCommand :
    ((toRun 0x110#20).part.opState = .standby ∧ ¬ spansDisjoint (toRun 0x110#20).part.spansAtRun) ∧
    ((toRun 0x120#20).part.opState = .standby ∧ spansDisjoint (toRun 0x120#20).part.spansAtRun ∧
      (∀ w, (toRun 0x120#20).part.service w = none) ∧ (toRun 0x120#20).part.atRest = true ∧
      (toRun 0x120#20).part.noIdleRequest = true ∧
      ∀ w : Win, 1 ≤ (toRun 0x120#20).part.staging.staged[w].length ∧
        (toRun 0x120#20).part.staging.staged[w].length ≤ 64) ∧
    ((allMasked (toRun 0x120#20)).part.atRest = true ∧ (allMasked (toRun 0x120#20)).part.copy.waiting = [] ∧
      ∀ c : Chan, ((allMasked (toRun 0x120#20)).part.channel c).masked = true ∧
        ((allMasked (toRun 0x120#20)).part.channel c).work = .idle) := by
  decide

/-- RUN with no window in service. -/
def emptyRun : State := State.reset.onPart { Part.reset with opState := .run }

/-- Bank 0 is the back of window 0, and the touch copier copies line 0 into it for port A's held write. -/
def homeBack : Service := { live with front := .b1, back := .b0, stale := ⟨3#64, 0#64, 0#64⟩ }
def touchedHome : State :=
  let s := touchAt homeBack false 3 .read
  s.onPart (s.part.withTouch ⟨.copying 0 ⟨0, 0x200#20, 0x100#20, 3, .read⟩, 0#16⟩)

theorem test_meets_StandbyCommand :
    State.reset.part.opState ≠ .run ∧ (inRun live).part.opState = .run ∧
      (touchedHome.part.opState = .run ∧ touchedHome.part.accessOf .a = some (held true (.stalled (.touchWait 0 0) 3)) ∧
        touchedHome.part.service 0 = some homeBack ∧ homeBack.retiring = false ∧
        (homeBack.stale.set homeBack.back (homeBack.backStale ||| homeBack.dirty)).b0 ≠ 0#64 ∧
        (⟨.a, 0, 0, true, false⟩ : TouchEntry) ∈ touchedHome.part.copy.queue) ∧
      (emptyRun.part.opState = .run ∧ (∀ w, emptyRun.part.service w = none) ∧ emptyRun.part.atRest = true ∧
        emptyRun.part.noIdleRequest = true) := by decide

/-- The ranges of SET_TIMING and SET_PERIOD at their ends, and one beyond each. -/
theorem test_meets_TimerCommands_ranges :
    ((2#8).toNat ≤ 2 ∧ 1 ≤ (1#16).toNat ∧ (4096#16).toNat ≤ 4096 ∧ 1 ≤ (1#8).toNat) ∧ ¬ ((3#8).toNat ≤ 2) ∧
      ¬ (1 ≤ (0#16).toNat) ∧ ¬ ((4097#16).toNat ≤ 4096) ∧ ¬ (1 ≤ (0#8).toNat) ∧ (1#16).toNat < 2 ∧
      2 ≤ (2#16).toNat := by decide

theorem test_meets_TimerCommands_latch :
    State.reset.part.timer.latched = false ∧
      (timed { Timer.reset with latched := true } State.reset).part.timer.latched = true := by decide

theorem test_meets_ChannelMasksAndLimits :
    (15 < (16#8).toNat ∧ (15#8).toNat ≤ 15) ∧
      ((inRun live).part.atRest = true ∧ (inRun live).part.noIdleRequest = true ∧
        (inRun live).part.copy.waiting = []) ∧
      (1 ≤ (1#8).toNat ∧ (15#8).toNat ≤ 15 ∧ 2 ≤ (2#8).toNat) ∧ ¬ (1 ≤ (0#8).toNat) ∧ ¬ ((16#8).toNat ≤ 15) ∧
      ¬ (2 ≤ (1#8).toNat) := by decide

/-- Channel 2 copies line 0 of window 0, masked, its last word under way. -/
def maskedLine : State :=
  let s := busyWith (.ofChannel 2 true 0x20F#20 0#16 4) (allMasked (inRun stale))
  s.onPart (s.part.setChannel 2 ⟨.serving 0 .catchUp (some (copyAt 15 .write)), true, 0#16⟩)

theorem test_meets_MasksGiveBackAndTakeJobs :
    (servedWithoutLine.frameGives (.setChannels 0x0F#8) = true ∧ servedWithoutLine.part.atRest = true ∧
      servedWithoutLine.part.noIdleRequest = true ∧ (servedWithoutLine.part.channel 0).work = .serving 0 .catchUp none) ∧
    (maskedLine.part.atRest = true ∧ maskedLine.part.onlyChannelActive 2 ∧ maskedLine.part.freeChannel? = none ∧
      (maskedLine.part.channel 2).masked = true ∧ 0x200#20 = stale.geometry.base .b1 ∧
      (∀ d, d ≠ 2 → ∀ job cp, (maskedLine.part.channel d).work ≠ .serving 0 job cp) ∧
      (∀ q, maskedLine.part.accessOf q = none) ∧
      (stale.stale.set .b1 (stale.stale.get .b1 &&& ~~~ BitVec.twoPow 64 0)).get stale.back ≠ 0#64) ∧
    ((waiting false).frameGives (.setChannels 0x0D#8) = true ∧ (waiting false).part.atRest = true ∧
      (waiting false).part.noIdleRequest = true ∧ (waiting false).part.waitingOk = true ∧
      (waiting false).part.copy.waiting = [⟨0, .catchUp, false⟩] ∧ ((waiting false).part.channel 1).work = .idle ∧
      (0x0D#8).getLsbD 1 = false ∧ (∀ d : Chan, d ≠ 1 → (0x0D#8).getLsbD d.val = true) ∧
      lowestLine? (stale.stale.get stale.back &&& ~~~ (waiting false).part.inCopyLines 0) = some 0) :=
  ⟨by decide, ⟨by decide, onlyChannel_of (by decide), by decide, by decide, by decide, others_of (by decide),
    noAccess_of (by decide), by decide⟩, by decide⟩

theorem test_meets_NoticeMasksGlobalsAndInterruptLine :
    (1 < (2#8).toNat ∧ 63 < (64#8).toNat) ∧ (63#8).toNat ≤ 63 ∧ 0x01#8 = (match Port.b with | .a => 0x00#8 | .b => 0x01#8) := by
  decide

/-- Windows 3 and 5 of port A hold a VIOLATION, and window 3 is masked. -/
def polled : NoticeUnit := { NoticeUnit.reset with
  window := (NoticeUnit.reset.window.set 3 0x20#8).set 5 0x20#8
  windowMask := 8#16 }

theorem test_meets_PollCommand :
    (polled.pollOrder = [0, 1, 2, 3, 4] ++ 5 :: [6, 7, 8, 9, 10, 11, 12, 13, 14, 15] ∧ polled.orderOk = true ∧
      (∀ v ∈ ([0, 1, 2, 3, 4] : List Win), polled.windowMask.getLsbD v.val = true ∨ polled.window[v] = 0#8) ∧
      (polled.windowMask.getLsbD 5 = false ∧ polled.window[(5 : Win)].getLsbD 5 = true ∧
        polled.kindMask.getLsbD 5 = false)) ∧
    (∀ w ∈ NoticeUnit.reset.pollOrder, NoticeUnit.reset.window[w] = 0#8) := by decide

/-! ## Arbitration and resets -/

/-- Port A and port B request the memory port, and channel 0 has a word to read. -/
def contended (run : Nat) : Part :=
  let s := working 0 (.serving 0 .catchUp (some (copyAt 0 .read)))
    (holding .b (held false (.requesting (.consumerRead 0)))
      (holding .a (held false (.requesting (.producerRead 0))) (inRun stale)))
  { s.part with arbiter := { s.part.arbiter with portRun := run } }

/-- The same, port B's read of a window that has become RETIRING, or port B alone, or nothing else with it. -/
def overtaken (other channel : Bool) : Part :=
  let s := holding .b (held false (.requesting (.consumerRead 0))) (inRun retiring)
  let t := if other then holding .a ⟨0x2000#20, false, Lanes.both, 0#16, .requesting .passThrough⟩ s else s
  (if channel then working 0 (.serving 0 .retire (some ⟨0, 0x200#20, 0x100#20, 0, .read⟩)) t else t).part

theorem test_meets_OrderOfChoice :
    ((contended 4).arbiter.access = none ∧ (contended 4).softReset ≠ .draining ∧
      (contended 4).touchRequests = false ∧ (contended 4).channelRequests 0 = true ∧
      (∀ d, (contended 4).channelRequests d = true → d = 0) ∧
      (contended 4).arbiter.runLimit ≤ (contended 4).arbiter.portRun) ∧
    ((contended 3).arbiter.portRun < (contended 3).arbiter.runLimit ∧ (contended 3).portRequests .b = true ∧
      (contended 3).arbiter.lastPort = Port.b.other ∧
      (contended 3).classify .b 0x104#20 false = .memory (.consumerRead 0)) ∧
    (touching.part.arbiter.access = none ∧ touching.part.touchRequests = true) ∧
    ((overtaken true true).classify .b 0x104#20 false = .stall (.retiring 0) ∧
      (overtaken true true).portRequests .b = true ∧ (overtaken true true).arbiter.lastPort = .a ∧
      (overtaken true true).portRequests .a = true ∧
      (overtaken true true).classify .a 0x2000#20 false = .memory .passThrough) ∧
    ((overtaken false true).portRequests .a = false ∧ (overtaken false true).channelRequests 0 = true ∧
      (overtaken false true).atRest = true) ∧
    ((overtaken false false).portRequests .a = false ∧ (∀ c, (overtaken false false).channelRequests c = false)) ∧
    ((inRun live).part.touchRequests = false ∧ (∀ c, (inRun live).part.channelRequests c = false) ∧
      (inRun live).part.portRequests .a = false ∧ (inRun live).part.portRequests .b = false) := by decide

/-- In step 1 of a soft reset: the access under way, with port A's access held or not. -/
def draining (m : MemAccess) (waits : Bool) : State :=
  let s := busyWith m (if waits then holding .a (held true .unclassified) (inRun live) else inRun live)
  s.onPart { s.part with softReset := .draining }

/-- The last pass-through read is under way in step 4, or the first of two. -/
def finishing (other : Bool) : State :=
  let s := busyWith readB (holding .b (held false (.granted .passThrough)) State.reset)
  let t := if other then holding .a (held true (.requesting .passThrough)) s else s
  t.onPart { t.part with softReset := .finishing ⟨other, true⟩ }

theorem test_meets_SoftResetInSteps :
    (State.reset.frameGives .softReset = true ∧ State.reset.part.arbiter.access = none ∧
      (stalled 3 (.releasePending 0)).frameGives .softReset = true ∧
      (stalled 3 (.releasePending 0)).part.arbiter.access = none) ∧
    ((granted .b false).frameGives .softReset = true ∧ (granted .b false).part.arbiter.access ≠ none) ∧
    ((draining readB true).part.softReset = .draining ∧ (draining readB true).part.arbiter.access = some readB ∧
      readB.kind = .single ∧ readB.requestor = .port .b ∧ (draining readB true).mem.wf = true) ∧
    ((draining { pairRead with write := true, kind := .pairWrite } false).part.arbiter.access =
        some { pairRead with write := true, kind := .pairWrite } ∧
      (draining pairRead false).part.arbiter.access = some pairRead) ∧
    ((draining (.ofTouch true 0x110#20 0#16 4) false).part.softReset = .draining ∧
      (draining (.ofChannel 1 false 0x110#20 0#16 4) true).part.softReset = .draining) ∧
    ((finishing false).part.softReset = .finishing ⟨false, true⟩ ∧
      (finishing false).part.arbiter.access = some readB ∧ (finishing false).part.atRest = true ∧
      (finishing false).part.onlyPortActive .b) ∧
    ((finishing true).part.softReset = .finishing ⟨true, true⟩ ∧ (finishing true).part.arbiter.access = some readB) ∧
    State.reset.part.softReset ≠ .draining ∧ ∀ awaited, State.reset.part.softReset ≠ .finishing awaited :=
  ⟨by decide, by decide, by decide, by decide, by decide,
    ⟨by decide, by decide, by decide, onlyPort_of (by decide)⟩, by decide, by decide,
    fun _ h => nomatch (show SoftReset.none = SoftReset.finishing _ from h)⟩

theorem test_meets_ResetPinAndPower :
    State.reset.mem.wf = true ∧ (granted .b false).mem.wf = true ∧
      (granted .b false).part.arbiter.access = some (.ofPort .b false 0x105#20 Lanes.both 0#16 4) ∧
      (granted .a true).part.arbiter.access = some (.ofPort .a true 0x105#20 Lanes.both 0#16 4) := by decide

/-- A state with a command waiting, that meets every invariant and steps. -/
theorem test_meets_invariants :
    let s : State := { inRun live with pending := [.emptyFrame] }
    s.mem.wf = true ∧ s.part.imagesOk = true ∧ (s.part.windowsMatchState = true ∧ s.part.timerMatchesState = true) ∧
      s.part.ordersOk = true ∧ (s.part.waitingOk = true ∧ s.part.queueOk = true ∧ s.part.marksDisjoint = true) ∧
      step s = .next (inRun live) :=
  ⟨by decide, by decide, by decide, by decide, by decide, rfl⟩

/-! ## What single commands do -/

/-- The command answers a next state with the property. -/
def after (c : Instr) (s : State) (f : State → Bool) : Bool :=
  match exec c s with
  | .next t => f t
  | _ => false

/-- Priming and RUN (R23): bank 0 is the front, image 0, the next number is 1, lines 0 and 1 of banks 1 and 2 are stale. -/
theorem test_run_enables_window_0 : after .run (toRun 0x120#20) (fun t =>
    decide (t.part.opState = .run ∧ t.link.reply = [0x01#8] ∧ (t.part.record 0).next = 1#16 ∧
      (t.part.service 0).map (fun sv => (sv.front, sv.back, sv.stale)) = some (.b0, .b1, ⟨0#64, 3#64, 3#64⟩))) = true := by
  decide +kernel

theorem test_run_conflict : after .run (toRun 0x110#20) (fun t =>
    decide (t.part.opState = .standby ∧ t.link.reply = [0x05#8])) = true := by decide +kernel

/-- A consumer read of word 5 of line 0 is granted at bank 0; a producer write at bank 1 (R37, R41). -/
theorem test_read_and_write_reach_their_banks :
    after (.accessArrival .b 0x105#20 true false Lanes.both 0#16) (inRun live) (fun t =>
      decide (t.part.arbiter.access.map (fun m => m.addr) = some 0x105#20)) = true ∧
    after (.accessArrival .a 0x105#20 false true Lanes.both 9#16) (inRun live) (fun t =>
      decide (t.part.arbiter.access.map (fun m => m.addr) = some 0x205#20 ∧
        (t.part.service 0).map (fun sv => sv.dirty) = some 1#64)) = true := by decide +kernel

theorem test_seq_read_pins : after (.seqRead .b 0 Lanes.both) (inRun live) (fun t =>
    decide (t.part.ports.b.readData = some 7#16 ∧ (t.part.service 0).map (fun sv => sv.pin) = some (some 0))) = true := by
  decide +kernel

/-- A release of a caught-up back: ready image 8 with one line, and channel 0 takes the window to catch up (R49, R51). -/
theorem test_explicit_release : after (.explicitRelease 0) (inRun written) (fun t =>
    decide ((t.part.service 0).map (fun sv => (sv.ready, sv.back)) = some (some ⟨.b1, 8#16, 1⟩, .b2) ∧
      (t.part.channel 0).work = .serving 0 .catchUp (some ⟨1, 0x200#20, 0x300#20, 0, .read⟩))) = true := by decide +kernel

theorem test_unpin_flips_late : after (.unpin 0) (inRun pinned) (fun t =>
    decide ((t.part.record 0).frontNumber = 9#16 ∧ (t.part.service 0).map (fun sv => (sv.front, sv.late)) =
      some (.b2, true) ∧ t.part.notices.b.window[(0 : Win)] = 1#8)) = true := by decide +kernel

theorem test_stall_limit_answers_ffff :
    after (.stallLimitReached .a) (holding .a (held false (.stalled (.releasePending 0) 1))
      (stalled 2 (.releasePending 0))) (fun t =>
        decide (t.part.ports.a.readData = some 0xFFFF#16 ∧ t.part.notices.a.window[(0 : Win)] = 0x40#8)) = true := by decide +kernel

/-- The write served by a touch copy under way stays in its touch wait through the retire, and is in the RETIRING stall,
from a fresh start time, at the end of that copy alone (R70, R90). -/
theorem test_retire_leaves_the_served_write_in_its_touch_wait :
    after .standby touchedHome (fun t =>
      decide (t.part.accessOf .a = touchedHome.part.accessOf .a ∧
        (t.part.service 0).map (fun sv => sv.retiring) = some true)) = true ∧
    after .memoryAccessCompletion (touchedWaiting homeTouch .retire false) (fun t =>
      decide (t.part.accessOf .a = some (held true (.stalled (.retiring 0) 0)) ∧
        (t.part.service 0).map (fun sv => sv.stale) = some ⟨3#64, 2#64, 0#64⟩)) = true := by decide +kernel

/-- A withdrawal leaves the choice to the other port, then to a channel (R142). -/
theorem test_withdrawn_selection_passes_to_the_rest :
    (overtaken true true).offer.arbiter.access.map (fun m => m.requestor) = some (.port .a) ∧
      (overtaken false true).offer.arbiter.access.map (fun m => m.requestor) = some (.channel 0) ∧
      (overtaken false false).offer.arbiter.access = none := by decide +kernel

/-- The flywheel episode's boundaries (06_cycle_boundaries.md, Worked Sequence): the loss at 258, and the runt. -/
theorem test_sync_loss_and_runt :
    after .syncLoss (timed (at' .external .locked 257) (inRun live)) (fun t =>
      decide (t.part.timer.sync = .flywheel ∧ t.part.timer.boundaries = 1#32 ∧ t.part.timer.count = 0 ∧
        t.part.notices.b.global = 0x03#6)) = true ∧
    after .syncInEdge (timed (at' .external .locked 1) (inRun live)) (fun t =>
      decide (t = timed (at' .external .locked 1) (inRun live))) = true := by decide +kernel

theorem test_period_boundary : after .periodBoundary (timed (at' .internal .locked 249) (inRun live)) (fun t =>
    decide (t.part.timer.boundaries = 1#32 ∧ t.part.timer.syncOut = true ∧ (t.part.record 0).age = 1)) = true := by decide +kernel

theorem test_set_window_then_get : after (.setWindow 15#8 edgeImage) State.reset (fun t =>
    decide (t.link.reply = [0x01#8] ∧ t.part.staging.changed = 0x8000#16) &&
      after (.getWindow 15#8 0#8) t (fun u => decide (u.link.reply = 0x01#8 :: imageBytes edgeImage))) = true := by decide +kernel

theorem test_poll_skips_the_masked_window :
    after (.poll 0#8) (State.reset.onPart { Part.reset with notices := ⟨polled, NoticeUnit.reset⟩ }) (fun t =>
      decide (t.link.reply = [0x01#8, 0x05#8, 0x20#8] ∧ t.part.notices.a.pollOrder.getLast? = some 5)) = true := by decide +kernel

/-- The 16 bits of the frame 0x15 0x80, sent bit by bit, are no frame of UNHOLD (R168). -/
theorem test_long_frame_is_malformed : judgeFrame [0x15#8, 0x80#8] [] = .malformed ∧
    judgeFrame [0x15#8] [true] = .malformed ∧ judgeFrame [] [true] = .ignored := by decide +kernel

end Sys2Proof.Tests
end

section
/-!
The discarded tag writes (05_tag_block.md, R104): the arrival of a tag write, what the Tag Block does with a write to
SEQ, STATUS or FILL, and the statement assembled from the two.
-/

namespace Sys2Proof.Machine

/-- The row TAG_WRITE is the arrival of a write at the tag word's address (log entry 9). -/
theorem exec_tagWrite_taken {q : Port} {w : Win} {word : TagWord} {lanes : Lanes} {data : Word} {s : State}
    (h : s.canPresent q = true) :
    exec (.tagWrite q w word lanes data) s =
      .next (s.onPart (s.part.arrive q (arrivingAccess (s.part.tagAddr w word) true lanes data))) := by
  simp only [exec, execTagWrite, State.presentTagWrite, State.present_taken _ h, State.onPart]

/-- An arriving write that is classified as a tag word goes to the Tag Block in the same event (R98). -/
theorem Part.arrive_tagWrite {p : Part} {q : Port} {a : Access} {w : Win} {word : TagWord}
    (soft : p.softReset ≠ .draining) (write : a.write = true) (cls : p.classify q a.addr a.write = .tag w word) :
    p.arrive q a = ((p.takeAccess q a).tagWrite q w word a.lanes a.data).settle := by
  unfold Part.arrive
  rw [if_neg soft, Part.classify_takeAccess, cls]
  simp only [Part.proceed, write, if_true]

/-- An access that is answered as it is taken leaves its port answered, and nothing else changed. -/
theorem Part.completeAccess_takeAccess (p : Part) (q : Port) (a : Access) (d : Option Word) :
    (p.takeAccess q a).completeAccess q d = p.withPort q (.answered d) := by
  cases q <;> rfl

/-- The Tag Block discards a write to a tag word other than CONTROL, whatever its lanes and its data (R104). -/
theorem Part.tagWrite_discarded {p : Part} {q : Port} {w : Win} {sv : Service} {word : TagWord}
    (hs : p.service w = some sv) (hw : word ≠ .control) (lanes : Lanes) (data : Word) :
    p.tagWrite q w word lanes data = (p.completeAccess q none).note q w .violation := by
  unfold Part.tagWrite
  rw [hs]
  cases word with
  | control => exact absurd rfl hw
  | seq => rfl
  | status => rfl
  | fill => rfl

/-- A port's answer and a notice begin no work in a part that has none to begin. -/
theorem Part.settle_answered_note {p : Part} (rest : p.atRest = true) (idle : p.noIdleRequest = true) (q : Port)
    (d : Option Word) (w : Win) (k : Notice) :
    ((p.withPort q (.answered d)).note q w k).settle = (p.withPort q (.answered d)).note q w k := by
  have answered_rest : (p.withPort q (.answered d)).atRest = true :=
    Part.atRest_withPort rest q (by simp [PortIf.answered])
  have answered_idle : (p.withPort q (.answered d)).noIdleRequest = true :=
    Part.noIdleRequest_withPort idle (by simp [PortIf.answered])
  -- neither predicate looks at the notices
  exact Part.settle_idle (p := (p.withPort q (.answered d)).note q w k) answered_rest answered_idle

/-- The notice VIOLATION is bit 5 of the window's set of pending notices (R149, R176). -/
theorem Part.note_violation (p : Part) (q : Port) (w : Win) :
    p.note q w .violation =
      { p with notices := p.notices.set q { p.notices.get q with
          window := (p.notices.get q).window.set w.val ((p.notices.get q).window[w] ||| 0x20#8) w.isLt } } := rfl

/-- An arriving write to SEQ, STATUS or FILL of an open tag block is discarded with VIOLATION (R98, R104). -/
theorem Part.arrive_tagWrite_discarded {p : Part} {q : Port} {a : Access} {w : Win} {sv : Service} {word : TagWord}
    (rest : p.atRest = true) (idle : p.noIdleRequest = true) (soft : p.softReset ≠ .draining) (write : a.write = true)
    (hs : p.service w = some sv) (hw : word ≠ .control) (cls : p.classify q a.addr a.write = .tag w word) :
    p.arrive q a = (p.withPort q (.answered none)).note q w .violation := by
  have taken : (p.takeAccess q a).service w = some sv := hs
  rw [Part.arrive_tagWrite soft write cls, Part.tagWrite_discarded taken hw, Part.completeAccess_takeAccess,
    Part.settle_answered_note rest idle]

/-- Settles O13: the write is classified as its tag word and goes to the Tag Block, which discards it; the answer and
the notice begin no other work. -/
theorem tagWriteDiscarded : Obligations.TagWriteDiscarded := by
  unfold Obligations.TagWriteDiscarded
  intro q w word lanes data s sv hw quiet isOpen n
  obtain ⟨present, rest, idle⟩ := quiet
  have soft : s.part.softReset ≠ .draining := State.canPresent_soft present
  obtain ⟨⟨-, inService, -⟩, -⟩ := Part.tagAddr_at isOpen
  have cls : s.part.classify q (s.part.tagAddr w word) true = .tag w word := Part.classify_tag isOpen
  have discarded : s.part.arrive q (arrivingAccess (s.part.tagAddr w word) true lanes data) =
      (s.part.withPort q (.answered none)).note q w .violation :=
    Part.arrive_tagWrite_discarded rest idle soft rfl inService hw cls
  rw [exec_tagWrite_taken present, discarded, Part.note_violation]
  rfl

end Sys2Proof.Machine
end

section
/-!
The commands on the stage (07_staged_configuration.md, R126, R127): the verdict on a frame that gives a command, the end
of such a frame where the command only changes the part, and the statement assembled from the two.
-/

namespace Sys2Proof.Machine

/-- Whole bytes that read back as a command are taken as that command (R168). -/
theorem judgeFrame_of_parse {bytes : List Byte} {c : LinkCommand} (parses : parseFrame bytes = some c) :
    judgeFrame bytes [] = .taken c := by
  cases bytes with
  | nil => cases parses
  | cons b rest => simp [judgeFrame, parses]

/-- A frame that gives a command is judged to be that command, given whole or bit by bit (R166, R168; log entry 10). -/
theorem State.verdict_of_frameGives {s : State} {c : LinkCommand} (parses : parseFrame (frameBytes c) = some c)
    (gives : s.frameGives c = true) : s.verdict (.taken c) = .taken c := by
  obtain ⟨takes, frame⟩ := Bool.and_eq_true_iff.mp gives
  unfold State.verdict
  rw [if_pos takes]
  cases hf : s.link.frame with
  | idle => rfl
  | shifting f =>
    simp only [hf, Bool.and_eq_true, decide_eq_true_eq, List.isEmpty_iff] at frame
    obtain ⟨bytes, bits⟩ := frame
    simp only [bytes, bits, judgeFrame_of_parse parses]
  | discarded => simp [hf] at frame

/-- At the end of a frame that gives a command, the command is taken with SS# high. -/
theorem State.frameEnd_of_frameGives {s : State} {c : LinkCommand} (parses : parseFrame (frameBytes c) = some c)
    (gives : s.frameGives c = true) : s.frameEnd (.taken c) = s.frameEnded.takeCommand c := by
  simp only [State.frameEnd, State.verdict_of_frameGives parses gives]

/-- The end of a frame that gives a command which only changes the part: the part so changed, and the reply OK. -/
theorem State.frameEnd_carryOut {s : State} {c : LinkCommand} {f : Part → Part}
    (parses : parseFrame (frameBytes c) = some c) (carried : s.frameEnded.takeCommand c = s.frameEnded.carryOut f)
    (gives : s.frameGives c = true) : s.frameEnd (.taken c) = s.replied (f s.part) [0x01#8] := by
  rw [State.frameEnd_of_frameGives parses gives, carried]
  rfl

theorem exec_clearStage_given {s : State} (gives : s.frameGives .clearStage = true) :
    exec .clearStage s = .next (s.replied s.part.clearStage [0x01#8]) :=
  congrArg Host.Outcome.next (State.frameEnd_carryOut rfl rfl gives)

theorem exec_hold_given {s : State} (gives : s.frameGives .hold = true) :
    exec .hold s = .next (s.replied s.part.hold [0x01#8]) :=
  congrArg Host.Outcome.next (State.frameEnd_carryOut rfl rfl gives)

theorem exec_unhold_given {s : State} (gives : s.frameGives .unhold = true) :
    exec .unhold s = .next (s.replied s.part.unhold [0x01#8]) :=
  congrArg Host.Outcome.next (State.frameEnd_carryOut rfl rfl gives)

/-- Settles O43: each frame is judged to be its command, which changes the part's stage alone, whatever the operating
state, and replies OK. -/
theorem stageCommands : Obligations.StageCommands := by
  unfold Obligations.StageCommands
  intro s
  refine ⟨fun gives => ?clear, fun gives => ?hold, fun gives => ?unhold⟩
  case clear => rw [exec_clearStage_given gives, Part.clearStage]
  case hold => rw [exec_hold_given gives, Part.hold]
  case unhold => rw [exec_unhold_given gives, Part.unhold]

end Sys2Proof.Machine
end

section
/-!
POLL (09_notices_and_interrupt_lines.md, R154): which windows hold a port's line, what the walk of the poll order finds,
what POLL leaves of the order, the command in each of its three outcomes, and the statement assembled from them.
-/

namespace Sys2Proof.Machine

/-- A set without the masked bits is not empty exactly where some bit of it is unmasked. -/
theorem and_not_ne_zero_iff {n : Nat} {x m : BitVec n} :
    x &&& ~~~m ≠ 0#n ↔ ∃ k, x.getLsbD k = true ∧ m.getLsbD k = false := by
  have bit (k : Nat) : (x &&& ~~~m).getLsbD k = true ↔ x.getLsbD k = true ∧ m.getLsbD k = false := by
    rw [BitVec.getLsbD_and, BitVec.getLsbD_not, Bool.and_eq_true, Bool.and_eq_true, decide_eq_true_eq, Bool.not_eq_true']
    exact ⟨fun ⟨inSet, _, unmasked⟩ => ⟨inSet, unmasked⟩,
      fun ⟨inSet, unmasked⟩ => ⟨inSet, BitVec.lt_of_getLsbD inSet, unmasked⟩⟩
  simp only [ne_eq, BitVec.zero_iff_eq_false, not_forall, Bool.not_eq_false, bit]

/-- The window is unmasked and has a pending notice of an unmasked kind (R152, R154). -/
theorem NoticeUnit.holdsLine_iff {n : NoticeUnit} {w : Win} :
    n.holdsLine w = true ↔ n.windowMask.getLsbD w.val = false ∧
      ∃ k, n.window[w].getLsbD k = true ∧ n.kindMask.getLsbD k = false := by
  rw [NoticeUnit.holdsLine, Bool.and_eq_true, decide_eq_true_eq, and_not_ne_zero_iff, Bool.not_eq_true', and_comm]

/-- The walk finds nothing where no window of the order holds the line. -/
theorem NoticeUnit.polled?_none {n : NoticeUnit} (h : ∀ w ∈ n.pollOrder, ¬ n.holdsLine w = true) : n.polled? = none :=
  List.find?_eq_none.mpr h

/-- The walk stops at the first window of the order that holds the line. -/
theorem NoticeUnit.polled?_first {n : NoticeUnit} {before after : List Win} {w : Win}
    (order : n.pollOrder = before ++ w :: after) (skipped : ∀ v ∈ before, ¬ n.holdsLine v = true)
    (found : n.holdsLine w = true) : n.polled? = some w := by
  have skips : ∀ v ∈ before, (!n.holdsLine v) = true := fun v hv => by simpa using skipped v hv
  exact List.find?_eq_some_iff_append.mpr ⟨found, before, after, order, skips⟩

/-- A list that holds `w` once, without `w`, is what stands before it and what stands after it. -/
theorem filter_ne_of_nodup {before after : List Win} {w : Win} (once : (before ++ w :: after).Nodup) :
    (before ++ w :: after).filter (fun x => decide (x ≠ w)) = before ++ after := by
  obtain ⟨fresh, -⟩ := List.nodup_cons.mp (List.nodup_middle.mp once)
  have others : ∀ x ∈ before ++ after, decide (x ≠ w) = true := fun x hx =>
    decide_eq_true (fun e => fresh (e ▸ hx))
  rw [List.filter_append, List.filter_cons_of_neg (by simp), ← List.filter_append, List.filter_eq_self.mpr others]

/-- In a complete poll order the found window moves to the end, and the others keep their order (R154). -/
theorem NoticeUnit.afterPoll_eq {n : NoticeUnit} {before after : List Win} {w : Win}
    (order : n.pollOrder = before ++ w :: after) (complete : n.orderOk = true) :
    n.afterPoll w =
      { n with window := n.window.set w.val 0#8 w.isLt, pollOrder := before ++ after ++ [w] } := by
  obtain ⟨nodup, -⟩ := Bool.and_eq_true_iff.mp complete
  have once : (before ++ w :: after).Nodup := order ▸ of_decide_eq_true nodup
  rw [NoticeUnit.afterPoll, order, filter_ne_of_nodup once]

/-- A port code above 1 names no port (R172). -/
theorem portArg_none {b : Byte} (h : 1 < b.toNat) : portArg b = none := by
  have notA : b ≠ 0#8 := by rintro rfl; exact absurd h (by decide)
  have notB : b ≠ 1#8 := by rintro rfl; exact absurd h (by decide)
  rw [portArg, if_neg notA, if_neg notB]

theorem State.takePoll_badArg (s : State) {port : Byte} (h : portArg port = none) :
    s.takePoll port = s.result .badArg := by
  rw [State.takePoll, h]

theorem State.takePoll_none {s : State} {port : Byte} {q : Port} (hq : portArg port = some q)
    (h : (s.part.notices.get q).polled? = none) : s.takePoll port = s.withReply [0x01#8, 0xFF#8, 0x00#8] := by
  simp only [State.takePoll, hq, h]
  rfl

theorem State.takePoll_found {s : State} {port : Byte} {q : Port} {w : Win} (hq : portArg port = some q)
    (h : (s.part.notices.get q).polled? = some w) :
    s.takePoll port =
      (s.onPart { s.part with notices := s.part.notices.set q ((s.part.notices.get q).afterPoll w) }).withReply
        [0x01#8, BitVec.ofNat 8 w.val, (s.part.notices.get q).window[w]] := by
  simp only [State.takePoll, hq, h]
  rfl

/-- A frame that gives POLL is judged to be POLL, which is then taken with SS# high. -/
theorem exec_poll_given {s : State} {port : Byte} (gives : s.frameGives (.poll port) = true) :
    exec (.poll port) s = .next (s.frameEnded.takePoll port) :=
  congrArg Host.Outcome.next (State.frameEnd_of_frameGives rfl gives)

theorem exec_poll_badArg {s : State} {port : Byte} (gives : s.frameGives (.poll port) = true) (code : 1 < port.toNat) :
    exec (.poll port) s = .next (s.replied s.part [0x02#8]) := by
  rw [exec_poll_given gives, State.takePoll_badArg _ (portArg_none code)]
  rfl

theorem exec_poll_none {s : State} {port : Byte} {q : Port} (gives : s.frameGives (.poll port) = true)
    (hq : portArg port = some q) (h : (s.part.notices.get q).polled? = none) :
    exec (.poll port) s = .next (s.replied s.part [0x01#8, 0xFF#8, 0x00#8]) := by
  rw [exec_poll_given gives, State.takePoll_none (s := s.frameEnded) hq h]
  rfl

theorem exec_poll_found {s : State} {port : Byte} {q : Port} {w : Win} (gives : s.frameGives (.poll port) = true)
    (hq : portArg port = some q) (h : (s.part.notices.get q).polled? = some w) :
    exec (.poll port) s =
      .next (s.replied { s.part with notices := s.part.notices.set q ((s.part.notices.get q).afterPoll w) }
        [0x01#8, BitVec.ofNat 8 w.val, (s.part.notices.get q).window[w]]) := by
  rw [exec_poll_given gives, State.takePoll_found (s := s.frameEnded) hq h]
  rfl

/-- Settles O51: a code above 1 names no port; else the walk of the port's poll order finds nothing, or the first window
that holds the line, which in a complete order moves to the end. -/
theorem pollCommand : Obligations.PollCommand := by
  unfold Obligations.PollCommand
  intro s port gives
  refine ⟨exec_poll_badArg gives, fun q code => ?_⟩
  have hq : portArg port = some q := by subst code; cases q <;> rfl
  refine ⟨fun noneHolds => ?nothing, fun before after w ⟨order, complete, skipped, found⟩ => ?first⟩
  case nothing =>
    exact exec_poll_none gives hq (NoticeUnit.polled?_none fun w hw => NoticeUnit.holdsLine_iff.not.mpr (noneHolds w hw))
  case first =>
    have stops : (s.part.notices.get q).polled? = some w := NoticeUnit.polled?_first order
      (fun v hv => NoticeUnit.holdsLine_iff.not.mpr (skipped v hv)) (NoticeUnit.holdsLine_iff.mpr found)
    rw [exec_poll_found gives hq stops, NoticeUnit.afterPoll_eq order complete]

end Sys2Proof.Machine
end

section
/-!
The machine's first statements: a step runs the front command, what reset leaves, and the bus cycles that bring no
classified access (02_access_resolution.md R26, R163; 10_operating_states_and_reset.md R161).
-/

namespace Sys2Proof.Machine

/-- Settles O1: both clauses are the two branches of `step`. -/
theorem stepRunsTheFrontCommand : Obligations.StepRunsTheFrontCommand := by
  unfold Obligations.StepRunsTheFrontCommand
  refine ⟨fun c rest s => rfl, fun s empty => ?_⟩
  rw [step, empty]

/-- Settles O2: each field of the reset state is written out in its block's reset value. -/
theorem resetHoldsTheResetValues : Obligations.ResetHoldsTheResetValues := by
  unfold Obligations.ResetHoldsTheResetValues
  dsimp only
  have windows : ∀ w : Win, State.reset.part.live[w] = Descriptor.reset ∧
      State.reset.part.staging.staged[w] = Descriptor.reset ∧ State.reset.part.records[w] = Record.reset ∧
      State.reset.part.notices.a.window[w] = 0#8 ∧ State.reset.part.notices.b.window[w] = 0#8 := by
    intro w
    simp [State.reset, Part.reset, Staging.reset, NoticeUnit.reset]
  have ports : ∀ q, State.reset.part.interrupt q = false := by
    intro q
    cases q <;> decide
  refine ⟨windows, rfl, rfl, rfl, fun q => ?ports, rfl, fun c => ?channels, rfl, rfl, rfl, rfl, rfl, rfl, rfl, rfl, rfl,
    rfl, rfl, rfl, fun k => rfl⟩
  case ports => cases q <;> exact ⟨rfl, rfl, rfl, ports _, rfl, rfl, rfl, rfl, rfl⟩
  case channels => simp [Part.channel, State.reset, Part.reset, CopyEngine.reset, Channel.reset]

/-- An access with a strobe is presented to its port (R26). -/
theorem exec_accessArrival_strobe {q : Port} {addr : Addr} {rd wr : Bool} {lanes : Lanes} {data : Word} {s : State}
    (strobe : (rd || wr) = true) :
    exec (.accessArrival q addr rd wr lanes data) s = .next (s.present q (arrivingAccess addr wr lanes data)) := by
  simp only [exec, execAccessArrival, strobe, if_true]

/-- Settles O3: each kind of arrival is one branch of `State.present`, before any classification. -/
theorem busCycles : Obligations.BusCycles := by
  unfold Obligations.BusCycles
  intro q addr rd wr lanes data s
  refine ⟨fun ⟨noRead, noWrite⟩ => ?noStrobe, fun ⟨strobe, held⟩ => ?held, fun ⟨strobe, free, busy⟩ => ?busy,
    fun ⟨strobe, free, ready, soft⟩ => ?taken, rfl⟩
  case noStrobe => simp [exec, execAccessArrival, noRead, noWrite]
  case held => rw [exec_accessArrival_strobe strobe, State.present, if_pos held]; rfl
  case busy => rw [exec_accessArrival_strobe strobe, State.present]; simp [free, busy]
  case taken =>
    rw [exec_accessArrival_strobe strobe, State.present]
    simp only [free, ready, Part.arrive, soft, if_true]
    rfl

end Sys2Proof.Machine
end

section
/-!
The memory's canonical form over every step (log entries 1 and 2): only the completion of a write, the RESET pin and
power touch the SRAM, and the first two by a write of a word.
-/

namespace Sys2Proof.Machine

/-- A step is the meaning of some command on the same state but for the queue, or nothing. -/
theorem keptByStep_of_exec {P : State → Prop} (queue : ∀ s l, P s → P { s with pending := l })
    (command : ∀ i s t, P s → exec i s = .next t → P t) : KeptByStep P := by
  intro s t holds stepped
  unfold step at stepped
  split at stepped
  · cases stepped
    exact holds
  · exact command _ _ t (queue s _ holds) stepped

theorem State.softResetCheck_mem (s : State) : s.softResetCheck.mem = s.mem := by
  unfold State.softResetCheck
  split <;> rfl

theorem State.softResetApply_mem (s : State) : s.softResetApply.mem = s.mem :=
  State.softResetCheck_mem _

theorem State.softResetTaken_mem (s : State) : s.softResetTaken.mem = s.mem := by
  unfold State.softResetTaken
  dsimp only
  split
  · rfl
  · exact State.softResetApply_mem _

/-- No command of the link touches the SRAM. -/
theorem State.takeCommand_mem (s : State) (c : LinkCommand) : (s.takeCommand c).mem = s.mem := by
  cases c
  case softReset => exact s.softResetTaken_mem
  all_goals simp only [State.takeCommand, State.takeGetStatus, State.takeSetWindow, State.takeGetWindow,
    State.takeGetWindowState, State.takeClearStage, State.takeHold, State.takeUnhold, State.takeSetTiming,
    State.takeSetPeriod, State.takeLatchTimer, State.takeReadTimer, State.takeGetChannel, State.takeSetLimits,
    State.takeSetNoticeMasks, State.takePoll, State.takeReadGlobal, State.takeRun, State.takeStandby,
    State.takeBoundary, State.takeSetChannels]
  all_goals repeat' split
  all_goals simp only [State.carryOut_mem, State.result_mem, State.withReply_mem]

theorem State.frameEnd_mem (s : State) (v : Verdict) : (s.frameEnd v).mem = s.mem := by
  unfold State.frameEnd
  split
  · rfl
  · rfl
  · exact State.takeCommand_mem _ _

theorem State.present_mem (s : State) (q : Port) (a : Access) : (s.present q a).mem = s.mem := by
  unfold State.present
  repeat' split
  all_goals rfl

theorem State.accessMem_wf {s : State} (h : s.mem.wf = true) (m : MemAccess) : (s.accessMem m).wf = true := by
  unfold State.accessMem
  split
  · exact Memory.wf_writeWord h _ _ _
  · exact h

theorem State.resetMem_wf {s : State} (h : s.mem.wf = true) : s.resetMem.wf = true := by
  unfold State.resetMem
  repeat' split
  · exact Memory.wf_writeWord h _ _ _
  · exact h
  · exact h

theorem State.completed_mem (s : State) (m : MemAccess) (word : Word) : (s.completed m word).mem = s.mem := by
  unfold State.completed
  split
  · rfl
  · split
    · rfl
    · exact State.softResetApply_mem _
    · exact State.softResetCheck_mem _

theorem State.memoryCompletion_wf {s : State} (h : s.mem.wf = true) : s.memoryCompletion.mem.wf = true := by
  unfold State.memoryCompletion
  split
  · exact h
  · rw [State.completed_mem]
    exact State.accessMem_wf h _

/-- Every command keeps the canonical form of the memory. -/
theorem exec_mem_wf {i : Instr} {s t : State} (h : s.mem.wf = true) (run : exec i s = .next t) : t.mem.wf = true := by
  have link : ∀ v, (s.frameEnd v).mem.wf = true := fun v => by rw [State.frameEnd_mem]; exact h
  have access : ∀ q a, (s.present q a).mem.wf = true := fun q a => by rw [State.present_mem]; exact h
  cases i <;> simp only [exec] at run <;> cases run
  case accessArrival => split; exacts [access _ _, h]
  case memoryAccessCompletion => exact State.memoryCompletion_wf h
  case softResetApply => split; exacts [State.memoryCompletion_wf h, h]
  case softResetDone => split; exacts [State.memoryCompletion_wf h, h]
  case tick => split <;> exact h
  case stallLimitReached => split <;> exact h
  case periodBoundary => split <;> exact h
  case syncLoss => split <;> exact h
  case flywheelBoundary => split <;> exact h
  case frameStart => split <;> exact h
  case sckEdge => repeat' split
                  all_goals exact h
  case resetPin => exact State.resetMem_wf h
  case powerUp => rfl
  all_goals first | exact link _ | exact access _ _ | exact h

/-- Settles O55: every command keeps the canonical form. -/
theorem memoryStaysCanonical : Obligations.MemoryStaysCanonical :=
  keptByStep_of_exec (fun _ _ h => h) (fun _ _ _ h run => exec_mem_wf h run)

end Sys2Proof.Machine
end

section
/-!
The images of every window over every step (R12, R13, R39): what a record can go through (`Record.Change`) keeps the
roles distinct and the latest bank up to date.
-/

namespace Sys2Proof.Machine

/-- The roles are distinct: front and back differ, and a ready bank is neither (R12). -/
theorem Service.rolesDistinct_iff {sv : Service} : sv.rolesDistinct = true ↔
    sv.front ≠ sv.back ∧ ∀ image, sv.ready = some image → image.bank ≠ sv.front ∧ image.bank ≠ sv.back := by
  unfold Service.rolesDistinct
  cases h : sv.ready <;> simp

/-- With distinct roles and no ready bank, the spare is the one bank without a role (R12). -/
theorem Service.spare_iff {sv : Service} (roles : sv.front ≠ sv.back) (none : sv.ready = none) (k : Bank) :
    sv.spare = some k ↔ k ≠ sv.front ∧ k ≠ sv.back := by
  unfold Service.spare
  rw [none]
  generalize sv.front = f at *
  generalize sv.back = b at *
  revert roles
  cases f <;> cases b <;> cases k <;> decide

/-- The new back of a release has no role before it, or is the dropped ready bank (R49). -/
theorem Service.newBack_spec {sv : Service} (roles : sv.rolesDistinct = true) :
    sv.newBack ≠ sv.front ∧ sv.newBack ≠ sv.back := by
  obtain ⟨differ, ready⟩ := Service.rolesDistinct_iff.mp roles
  unfold Service.newBack
  cases h : sv.ready with
  | some image => exact ready image h
  | none =>
    have third : ∃ k, k ≠ sv.front ∧ k ≠ sv.back := by
      generalize sv.front = f at *
      generalize sv.back = b at *
      cases f <;> cases b <;> first | exact ⟨.b0, by decide⟩ | exact ⟨.b1, by decide⟩ | exact ⟨.b2, by decide⟩
    obtain ⟨k, hk⟩ := third
    simp only [(Service.spare_iff differ h k).mpr hk, Option.getD_some]
    exact hk

theorem Record.imagesOk_iff {r : Record} : r.imagesOk = true ↔
    ∀ sv, r.service = some sv → sv.rolesDistinct = true ∧ sv.stale.get sv.latest = noLines := by
  unfold Record.imagesOk
  cases r.service <;> simp [Service.latestFresh]

/-- A release of a back that is up to date makes it the latest bank (R49). -/
theorem Record.imagesOk_released {r : Record} {sv : Service} (roles : sv.rolesDistinct = true)
    (fresh : sv.backStale = noLines) : (r.released sv).imagesOk = true := by
  obtain ⟨newFront, newBack⟩ := Service.newBack_spec roles
  obtain ⟨differ, -⟩ := Service.rolesDistinct_iff.mp roles
  rw [Record.imagesOk_iff]
  rintro _ ⟨⟩
  refine ⟨Service.rolesDistinct_iff.mpr ⟨newFront.symm, ?_⟩, ?_⟩
  · rintro _ ⟨⟩
    exact ⟨differ.symm, newBack.symm⟩
  · have kept : sv.staleAfterRelease.get sv.back = sv.backStale := by
      unfold Service.staleAfterRelease Service.backStale
      cases sv.back <;> rfl
    exact kept.trans fresh

/-- A flip leaves the latest bank the same one, now the front (R13, R63). -/
theorem Record.imagesOk_flipped {r : Record} {sv : Service} {image : ReadyImage} {late : Bool}
    (roles : sv.rolesDistinct = true) (fresh : sv.stale.get sv.latest = noLines) (ready : sv.ready = some image) :
    (r.flipped sv image late).imagesOk = true := by
  obtain ⟨-, apart⟩ := Service.rolesDistinct_iff.mp roles
  obtain ⟨-, notBack⟩ := apart image ready
  have latest : sv.latest = image.bank := by rw [Service.latest, ready]
  rw [Record.imagesOk_iff]
  rintro _ ⟨⟩
  exact ⟨Service.rolesDistinct_iff.mpr ⟨notBack, fun _ h => by cases h⟩, latest ▸ fresh⟩

/-- Every change of a record keeps its images sound. -/
theorem Record.Change.imagesOk {r r' : Record} (change : Record.Change true r r') (h : r.imagesOk = true) :
    r'.imagesOk = true := by
  cases change with
  | release sv hs fresh => exact Record.imagesOk_released (Record.imagesOk_iff.mp h sv hs).1 fresh
  | flip sv image late hs ready =>
    obtain ⟨roles, latest⟩ := Record.imagesOk_iff.mp h sv hs
    exact Record.imagesOk_flipped roles latest ready
  | enable d _ => rfl
  | off => rfl
  | age => exact h
  | inner sv sv' hs front back ready geometry retiring stale =>
    obtain ⟨roles, fresh⟩ := Record.imagesOk_iff.mp h sv hs
    obtain ⟨differ, apart⟩ := Service.rolesDistinct_iff.mp roles
    have latest : sv'.latest = sv.latest := by simp only [Service.latest, ready, front]
    have notBack : sv.latest ≠ sv.back := by
      unfold Service.latest
      cases hr : sv.ready with
      | none => exact differ
      | some image => exact (apart image hr).2
    rw [Record.imagesOk_iff]
    rintro _ ⟨⟩
    refine ⟨?_, ?_⟩
    · rw [Service.rolesDistinct_iff, front, back, ready]
      exact ⟨differ, apart⟩
    · rw [latest]
      exact eq_noLines_of_within (stale sv.latest notBack) fresh

theorem Record.Changes.imagesOk {r r' : Record} (changes : Record.Changes true r r') (h : r.imagesOk = true) :
    r'.imagesOk = true := by
  induction changes with
  | refl => exact h
  | tail _ change ih => exact change.imagesOk ih

theorem Part.imagesOk_iff {p : Part} : p.imagesOk = true ↔ ∀ w, (p.record w).imagesOk = true := by
  simp only [Part.imagesOk, List.all_eq_true]
  exact ⟨fun h w => h w (mem_allWindows w), fun h w _ => h w⟩

/-- Settles O56: every command changes a record by changes that keep its images, from where it stood or from reset. -/
theorem imagesStaySound : Obligations.ImagesStaySound := by
  refine keptByStep_of_exec (fun _ _ h => h) (fun i s t h run => ?_)
  rw [Part.imagesOk_iff] at h ⊢
  intro w
  rcases exec_recordsMove run w with fromHere | fromReset
  · exact fromHere.imagesOk (h w)
  · exact fromReset.imagesOk rfl

end Sys2Proof.Machine
end

section
/-!
A property of the part that every step keeps, packaged once: `Part.Kept P` asks for the shared operations of the events,
`Part.Kept.exec` gives every command. Each invariant of the part is then a fact about these few operations.
-/

namespace Sys2Proof.Machine

/-- The shared operations of the events keep the property `P` of the part. -/
structure Part.Kept (P : Part → Prop) : Prop where
  reset : P Part.reset
  ports : ∀ p x, P p → P { p with ports := x }
  timer : ∀ p t, t.running = p.timer.running → P p → P { p with timer := t }
  softReset : ∀ p x, P p → P { p with softReset := x }
  staging : ∀ p x, P p → P { p with staging := x }
  arbiter : ∀ p n x, P p → P { p with stallLimit := n, arbiter := x }
  masks : ∀ p m, P p → P (p.setMasks m)
  noticeMasks : ∀ p q k w r, P p → P (p.setNoticeMasks q k w r)
  polled : ∀ p q w, (p.notices.get q).polled? = some w → P p →
    P { p with notices := p.notices.set q ((p.notices.get q).afterPoll w) }
  globals : ∀ p q g, P p → P { p with notices := p.notices.set q { p.notices.get q with global := g } }
  noteGlobal : ∀ p k, P p → P (p.noteGlobal k)
  round : ∀ p, P p → P p.round
  offer : ∀ p, P p → P p.offer
  deliver : ∀ p m word, P p → P (p.deliver m word)
  deliverLast : ∀ p m word, P p → P (p.deliverLast m word)
  timeout : ∀ p q, P p → P (p.timeout q)
  proceed : ∀ p q a c, P p → P (p.proceed q a c)
  deliverBoundary : ∀ p, P p → P p.deliverBoundary
  enterRun : ∀ p, p.opState = .standby → P p → P p.enterRun
  enterStopping : ∀ p, p.opState = .run → P p → P p.enterStopping

variable {P : Part → Prop}

theorem Part.Kept.settle (k : Part.Kept P) {p : Part} (h : P p) : P p.settle :=
  k.offer _ (k.round _ (k.round _ h))

theorem Part.Kept.access (k : Part.Kept P) {p : Part} (h : P p) (x : Arbiter) : P { p with arbiter := x } :=
  k.arbiter p p.stallLimit x h

theorem Part.Kept.finishAccess (k : Part.Kept P) {p : Part} (h : P p) (m : MemAccess) (word : Word) :
    P (p.finishAccess m word) :=
  k.offer _ (k.access (k.round _ (k.round _ (k.deliver _ m word h))) _)

theorem Part.Kept.finishAwaited (k : Part.Kept P) {p : Part} (h : P p) (m : MemAccess) (word : Word)
    (awaited : PerPort Bool) : P (p.finishAwaited m word awaited) := by
  have finished : P (p.finishAccess m word) := k.finishAccess h m word
  unfold Part.finishAwaited
  generalize p.finishAccess m word = q at finished
  exact k.softReset q _ finished

theorem Part.Kept.secondHalf (k : Part.Kept P) {p : Part} (h : P p) (m : MemAccess) (mask word : Word) :
    P (p.secondHalf m mask word) := by
  unfold Part.secondHalf
  repeat' split
  all_goals first | exact h | exact k.access h _

theorem Part.Kept.arrive (k : Part.Kept P) {p : Part} (h : P p) (q : Port) (a : Access) : P (p.arrive q a) := by
  have taken : P (p.takeAccess q a) := k.ports p _ h
  unfold Part.arrive
  split
  · exact taken
  · exact k.settle (k.proceed _ _ _ _ taken)

theorem Part.Kept.boundary (k : Part.Kept P) {p : Part} (h : P p) : P p.boundary :=
  k.deliverBoundary _ (k.noteGlobal _ _ (k.timer p _ rfl h))

theorem Part.Kept.loseLock (k : Part.Kept P) {p : Part} (h : P p) : P p.loseLock :=
  k.noteGlobal _ _ (k.timer p _ rfl h)

theorem Part.Kept.restoreLock (k : Part.Kept P) {p : Part} (h : P p) : P p.restoreLock :=
  k.noteGlobal _ _ (k.timer p _ rfl h)

theorem Part.Kept.dueBoundary (k : Part.Kept P) {p : Part} (h : P p) (d : Due) : P (p.dueBoundary d) := by
  cases d
  · exact h
  · exact k.settle (k.boundary h)
  · exact k.settle (k.loseLock (k.boundary h))
  · exact k.settle (k.boundary h)

theorem Part.Kept.timeouts (k : Part.Kept P) {p : Part} (h : P p) : P p.timeouts :=
  k.timeout _ _ (k.timeout _ _ h)

theorem Part.Kept.timeoutsOf (k : Part.Kept P) {p : Part} (h : P p) (first : PerPort Bool) :
    P (p.timeoutsOf first) := by
  unfold Part.timeoutsOf
  cases first.a <;> cases first.b
  exacts [h, k.timeout _ _ h, k.timeout _ _ h, k.timeout _ _ (k.timeout _ _ h)]

theorem Part.Kept.tick (k : Part.Kept P) {p : Part} (h : P p) (first : PerPort Bool) : P (p.tick first) := by
  have ticked : P ({ p with timer := p.timer.tick }).advanceStalls := k.ports _ _ (k.timer p _ rfl h)
  unfold Part.tick
  dsimp only
  split_ifs
  · exact k.timeouts ticked
  · exact k.timeouts (k.dueBoundary (k.timeoutsOf ticked _) _)
  · exact k.dueBoundary ticked _
  · exact h

theorem Part.Kept.syncEdge (k : Part.Kept P) {p : Part} (h : P p) : P p.syncEdge := by
  unfold Part.syncEdge
  repeat' split
  · exact h
  · exact k.settle (k.boundary h)
  · exact k.restoreLock (k.timer p _ rfl h)
  · exact k.settle (k.restoreLock (k.boundary h))
  · exact h

theorem Part.Kept.afterReset (k : Part.Kept P) (p : Part) : P p.afterReset := k.ports _ _ k.reset

theorem Part.Kept.softResetBlocks (k : Part.Kept P) (p : Part) : P p.softResetBlocks :=
  k.offer _ (k.softReset _ _ (k.ports _ _ k.reset))

theorem Part.Kept.softResetCheck (k : Part.Kept P) {s : State} (h : P s.part) : P s.softResetCheck.part := by
  unfold State.softResetCheck
  split
  · exact k.softReset _ _ h
  · exact h

theorem Part.Kept.softResetApply (k : Part.Kept P) (s : State) : P s.softResetApply.part :=
  k.softResetCheck (s := { s with part := s.part.softResetBlocks }) (k.softResetBlocks _)

theorem Part.Kept.softResetTaken (k : Part.Kept P) {s : State} (h : P s.part) : P s.softResetTaken.part := by
  unfold State.softResetTaken
  dsimp only
  split
  · exact k.softReset _ _ h
  · exact k.softResetApply _

theorem Part.Kept.completed (k : Part.Kept P) {s : State} (h : P s.part) (m : MemAccess) (word : Word) :
    P (s.completed m word).part := by
  have finished : P (s.part.finishAccess m word) := k.finishAccess h m word
  unfold State.completed
  split
  · exact k.secondHalf h _ _ _
  · split
    · simp only []
      exact finished
    · exact k.softResetApply _
    · exact k.softResetCheck (s := { s with part := s.part.finishAwaited m word _ }) (k.finishAwaited h _ _ _)

theorem Part.Kept.memoryCompletion (k : Part.Kept P) {s : State} (h : P s.part) : P s.memoryCompletion.part := by
  unfold State.memoryCompletion
  split
  · exact h
  · exact k.completed (s := ({ s with mem := s.accessMem _ }).useFree) h _ _

theorem Part.Kept.present (k : Part.Kept P) {s : State} (h : P s.part) (q : Port) (a : Access) :
    P (s.present q a).part := by
  unfold State.present
  repeat' split
  · exact k.ports _ _ h
  · exact k.arrive h _ _
  · exact h

theorem Part.Kept.takeRun (k : Part.Kept P) {s : State} (h : P s.part) : P s.takeRun.part := by
  unfold State.takeRun
  repeat' split
  all_goals simp only [State.carryOut_part, State.result_part]
  · exact k.enterRun _ ‹_› h
  all_goals exact h

theorem Part.Kept.takeStandby (k : Part.Kept P) {s : State} (h : P s.part) : P s.takeStandby.part := by
  unfold State.takeStandby
  split
  all_goals simp only [State.carryOut_part, State.result_part]
  · exact k.enterStopping _ ‹_› h
  all_goals exact h

theorem Part.Kept.takeSetPeriod (k : Part.Kept P) {s : State} (h : P s.part) (n : Word) :
    P (s.takeSetPeriod n).part := by
  unfold State.takeSetPeriod
  split
  · exact h
  · show P (s.part.setPeriod n.toNat)
    unfold Part.setPeriod
    split <;> exact k.timer _ _ rfl h

theorem Part.Kept.takePoll (k : Part.Kept P) {s : State} (h : P s.part) (port : Byte) : P (s.takePoll port).part := by
  unfold State.takePoll
  split
  · exact h
  · dsimp only
    split
    · exact h
    · exact k.polled _ _ _ ‹_› h

theorem Part.Kept.takeReadGlobal (k : Part.Kept P) {s : State} (h : P s.part) (port : Byte) :
    P (s.takeReadGlobal port).part := by
  unfold State.takeReadGlobal
  split
  · exact h
  · exact k.globals _ _ _ h

theorem Part.Kept.takeSetNoticeMasks (k : Part.Kept P) {s : State} (h : P s.part) (port kinds : Byte) (windows : Word)
    (routing : Byte) : P (s.takeSetNoticeMasks port kinds windows routing).part := by
  unfold State.takeSetNoticeMasks
  repeat' split
  · exact h
  · exact h
  · exact k.noticeMasks _ _ _ _ _ h

theorem Part.Kept.takeBoundary (k : Part.Kept P) {s : State} (h : P s.part) : P s.takeBoundary.part := by
  unfold State.takeBoundary
  split
  all_goals simp only [State.carryOut_part, State.result_part]
  · exact k.settle (k.boundary h)
  all_goals exact h

theorem Part.Kept.takeSetChannels (k : Part.Kept P) {s : State} (h : P s.part) (m : Byte) :
    P (s.takeSetChannels m).part := by
  unfold State.takeSetChannels
  split
  all_goals simp only [State.carryOut_part, State.result_part]
  · exact h
  · exact k.settle (k.masks _ _ h)

theorem Timer.latch_running (t : Timer) : t.latch.running = t.running := by
  unfold Timer.latch
  split <;> rfl

theorem Part.Kept.takeCommand (k : Part.Kept P) {s : State} (h : P s.part) (c : LinkCommand) :
    P (s.takeCommand c).part := by
  cases c
  case run => exact k.takeRun h
  case standby => exact k.takeStandby h
  case softReset => exact k.softResetTaken h
  case setPeriod => exact k.takeSetPeriod h _
  case poll => exact k.takePoll h _
  case latchTimer => exact k.timer _ _ (Timer.latch_running _) h
  case readTimer => exact k.timer s.part _ rfl h
  case setNoticeMasks => exact k.takeSetNoticeMasks h _ _ _ _
  case boundary => exact k.takeBoundary h
  case setChannels => exact k.takeSetChannels h _
  case readGlobal => exact k.takeReadGlobal h _
  all_goals simp only [State.takeCommand, State.takeGetStatus, State.takeSetWindow, State.takeGetWindow,
    State.takeGetWindowState, State.takeClearStage, State.takeHold, State.takeUnhold, State.takeSetTiming,
    State.takeGetChannel, State.takeSetLimits]
  all_goals repeat' split
  all_goals try simp only [State.carryOut_part, State.result_part, State.withReply_part]
  all_goals first
    | exact h
    | exact k.staging _ _ h
    | exact k.timer _ _ rfl h
    | exact k.arbiter _ _ _ h

theorem Part.Kept.frameEnd (k : Part.Kept P) {s : State} (h : P s.part) (v : Verdict) : P (s.frameEnd v).part := by
  unfold State.frameEnd
  split
  · exact h
  · exact h
  · exact k.takeCommand (s := s.frameEnded) h _

/-- Every command keeps a property that the shared operations keep. -/
theorem Part.Kept.exec (k : Part.Kept P) {i : Instr} {s t : State} (h : P s.part) (run : exec i s = .next t) :
    P t.part := by
  have link : ∀ v, P (s.frameEnd v).part := k.frameEnd h
  have access : ∀ q a, P (s.present q a).part := k.present h
  have ticked : ∀ f, P (s.tick f).part := k.tick h
  cases i <;> simp only [Machine.exec] at run <;> cases run
  case accessArrival => split; exacts [access _ _, h]
  case memoryAccessCompletion => exact k.memoryCompletion h
  case softResetApply => split; exacts [k.memoryCompletion h, h]
  case softResetDone => split; exacts [k.memoryCompletion h, h]
  case tick => split; exacts [ticked _, h]
  case stallLimitReached => split; exacts [ticked _, h]
  case periodBoundary => split; exacts [ticked _, h]
  case syncLoss => split; exacts [ticked _, h]
  case flywheelBoundary => split; exacts [ticked _, h]
  case syncInEdge => exact k.syncEdge h
  case frameStart => split <;> exact h
  case sckEdge => repeat' split
                  all_goals exact h
  case resetPin => exact k.afterReset _
  case powerUp => exact k.afterReset _
  all_goals first | exact link _ | exact access _ _ | exact h | exact k.ports _ _ h

/-- Every step keeps a property that the shared operations keep. -/
theorem Part.Kept.keptByStep (k : Part.Kept P) : KeptByStep (fun s => P s.part) :=
  keptByStep_of_exec (fun _ _ h => h) (fun _ _ _ h run => k.exec h run)

end Sys2Proof.Machine
end

section
/-!
The poll orders over every step (R148, R154): the work inside an event leaves them, and POLL moves a window of the order
to its end.
-/

namespace Sys2Proof.Machine

theorem NoticeUnit.orderOk_iff {n : NoticeUnit} : n.orderOk = true ↔ n.pollOrder.Nodup ∧ n.pollOrder.length = 16 := by
  simp only [NoticeUnit.orderOk, Bool.and_eq_true, decide_eq_true_eq]

/-- A window that POLL finds moves to the end of the order, which stays complete (R154). -/
theorem NoticeUnit.orderOk_afterPoll {n : NoticeUnit} {w : Win} (found : n.polled? = some w) (h : n.orderOk = true) :
    (n.afterPoll w).orderOk = true := by
  obtain ⟨-, before, after, order, -⟩ := List.find?_eq_some_iff_append.mp found
  rw [NoticeUnit.afterPoll_eq order h]
  obtain ⟨nodup, length⟩ := NoticeUnit.orderOk_iff.mp h
  have moved : (before ++ after ++ [w]).Perm n.pollOrder := by
    rw [order]
    exact List.perm_append_singleton w (before ++ after) |>.trans List.perm_middle.symm
  exact NoticeUnit.orderOk_iff.mpr ⟨moved.nodup_iff.mpr nodup, moved.length_eq.trans length⟩

theorem Part.ordersOk_iff {p : Part} : p.ordersOk = true ↔ ∀ q, (p.notices.get q).orderOk = true := by
  rw [Part.ordersOk, Bool.and_eq_true]
  exact ⟨fun h q => by cases q; exacts [h.1, h.2], fun h => ⟨h .a, h .b⟩⟩

/-- What replaces one port's notice state by another that is complete keeps the orders. -/
theorem Part.ordersOk_set {p : Part} {q : Port} {n : NoticeUnit} (h : p.ordersOk = true) (complete : n.orderOk = true) :
    ({ p with notices := p.notices.set q n } : Part).ordersOk = true := by
  rw [Part.ordersOk_iff] at h ⊢
  intro r
  by_cases hr : r = q
  · subst hr
    simpa using complete
  · simpa [PerPort.get_set_ne _ hr] using h r

/-- The work inside an event leaves the poll orders. -/
theorem Part.Moves.ordersOk {en : Bool} {p q : Part} (moves : Part.Moves en p q) (h : p.ordersOk = true) :
    q.ordersOk = true := by
  obtain ⟨orderA, -⟩ := moves.noticesA
  obtain ⟨orderB, -⟩ := moves.noticesB
  simpa only [Part.ordersOk, NoticeUnit.orderOk, orderA, orderB] using h

theorem Part.ordersOk_applyAttempt {p : Part} (h : p.ordersOk = true) : p.applyAttempt.1.ordersOk = true := by
  rcases p.applyAttempt_cases with e | e | e
  · exact e ▸ h
  · rw [e]
    exact (Part.moves_noteGlobal (en := true) { p with live := _, staging := _ } .configApplied).ordersOk h
  · rw [e]
    exact (Part.moves_noteGlobal (en := true) { p with staging := _ } .configRejected).ordersOk h

/-- The shared operations keep the poll orders complete. -/
theorem Part.kept_ordersOk : Part.Kept (fun p => p.ordersOk = true) where
  reset := by decide
  ports _ _ h := h
  timer _ _ _ h := h
  softReset _ _ h := h
  staging _ _ h := h
  arbiter _ _ _ h := h
  masks _ _ h := h
  noticeMasks p q k w r h := Part.ordersOk_set h (Part.ordersOk_iff.mp h q)
  polled p q w found h := Part.ordersOk_set h (NoticeUnit.orderOk_afterPoll found (Part.ordersOk_iff.mp h q))
  globals p q g h := Part.ordersOk_set h (Part.ordersOk_iff.mp h q)
  noteGlobal p k h := (p.moves_noteGlobal (en := true) k).ordersOk h
  round p h := (p.moves_round (en := true)).ordersOk h
  offer p h := (p.moves_offer (en := true)).ordersOk h
  deliver p m word h := (p.moves_deliver (en := true) m word).ordersOk h
  deliverLast p m word h := (p.moves_deliverLast (en := true) m word).ordersOk h
  timeout p q h := (p.moves_timeout (en := true) q).ordersOk h
  proceed p q a c h := (p.moves_proceed (en := true) q a c).ordersOk h
  deliverBoundary _ h := (Part.moves_deliverBoundary (fun _ _ => rfl)).ordersOk (Part.ordersOk_applyAttempt h)
  enterRun p _ h := by
    refine (Part.moves_settle (en := true) _).ordersOk ((Part.moves_foldl (en := true) (fun q w => ?_) allWindows _).ordersOk ?_)
    · split
      · exact q.moves_enable w
      · exact .refl q
    · exact h
  enterStopping p _ h := by
    refine (Part.moves_settle (en := true) _).ordersOk ((Part.moves_checkStandby (en := true) _).ordersOk
      ((Part.moves_foldl (en := true) (fun q w => ?_) allWindows _).ordersOk ?_))
    · repeat' split
      · exact .refl q
      · exact q.moves_retire w
      · exact .refl q
    · exact h

/-- Settles O58: every shared operation keeps the poll orders complete. -/
theorem pollOrdersStayComplete : Obligations.PollOrdersStayComplete := Part.kept_ordersOk.keptByStep

end Sys2Proof.Machine
end

section
/-!
The operating state over every step (R32, R110, R113, R157): the work inside an event leaves it, or the part falls from
STOPPING to STANDBY with no window in service; windows are enabled in RUN alone.
-/

namespace Sys2Proof.Machine

/-- The windows and the timer agree with the operating state. -/
def Part.stateAgrees (p : Part) : Prop := p.windowsMatchState = true ∧ p.timerMatchesState = true

theorem Part.windowsMatchState_iff {p : Part} : p.windowsMatchState = true ↔
    (p.opState = .standby → ∀ w, p.service w = none) ∧
      (p.opState = .stopping → ∀ w sv, p.service w = some sv → sv.retiring = true) := by
  unfold Part.windowsMatchState
  cases p.opState
  · simp only [Part.allOff, List.all_eq_true, Option.isNone_iff_eq_none, reduceCtorEq, false_implies, and_true,
      true_implies]
    exact ⟨fun h w => h w (mem_allWindows w), fun h w _ => h w⟩
  · simp
  · simp only [List.all_eq_true, reduceCtorEq, false_implies, true_and, true_implies]
    constructor
    · intro h w sv hs
      have := h w (mem_allWindows w)
      rwa [hs] at this
    · intro h w _
      cases hs : p.service w with
      | none => rfl
      | some sv => exact h w sv hs

theorem Part.timerMatchesState_iff {p : Part} : p.timerMatchesState = true ↔
    p.timer.running = decide (p.opState ≠ .standby) := by
  rw [Part.timerMatchesState, beq_iff_eq]

/-- Agreement looks at the operating state, the records and whether the timer runs, and at nothing else. -/
theorem Part.stateAgrees_congr {p q : Part} (opState : q.opState = p.opState) (records : q.records = p.records)
    (running : q.timer.running = p.timer.running) (h : p.stateAgrees) : q.stateAgrees := by
  unfold Part.stateAgrees at *
  rw [Part.windowsMatchState_iff, Part.timerMatchesState_iff] at *
  have service : ∀ w, q.service w = p.service w := fun w => by simp only [Part.service, Part.record, records]
  simpa only [opState, running, service] using h

/-- Nothing that happens to a record, but an enable, makes a RETIRING window LIVE again (R10). -/
theorem Record.Changes.retiring {r r' : Record} (changes : Record.Changes false r r')
    (h : ∀ sv, r.service = some sv → sv.retiring = true) : ∀ sv, r'.service = some sv → sv.retiring = true := by
  induction changes with
  | refl => exact h
  | tail _ change ih =>
    cases change with
    | release sv hs _ => rintro _ ⟨⟩; exact ih sv hs
    | flip sv image late hs _ => rintro _ ⟨⟩; exact ih sv hs
    | enable d h => cases h
    | off => rintro _ ⟨⟩
    | inner sv sv' hs _ _ _ _ retiring _ => rintro _ ⟨⟩; exact retiring (ih sv hs)
    | age => exact ih

/-- The work inside an event that enables no window keeps the agreement. -/
theorem Part.Moves.stateAgrees {p q : Part} (moves : Part.Moves false p q) (h : p.stateAgrees) : q.stateAgrees := by
  obtain ⟨windows, timer⟩ := h
  rw [Part.windowsMatchState_iff] at windows
  rw [Part.timerMatchesState_iff] at timer
  unfold Part.stateAgrees
  rw [Part.windowsMatchState_iff, Part.timerMatchesState_iff]
  rcases moves.control with ⟨sameTimer, sameState⟩ | ⟨-, standby, stopped, allOff⟩
  · rw [sameTimer, sameState]
    exact ⟨⟨fun st w => (moves.records w).off (windows.1 st w), fun st w => (moves.records w).retiring (windows.2 st w)⟩,
      timer⟩
  · rw [standby, stopped]
    exact ⟨⟨fun _ => allOff rfl, fun st => by cases st⟩, rfl⟩

/-- In RUN any work inside an event keeps the agreement. -/
theorem Part.Moves.stateAgrees_run {p q : Part} (moves : Part.Moves true p q) (run : p.opState = .run)
    (h : p.stateAgrees) : q.stateAgrees := by
  rcases moves.control with ⟨sameTimer, sameState⟩ | ⟨stopping, -⟩
  · refine ⟨Part.windowsMatchState_iff.mpr ?_, ?_⟩
    · rw [sameState, run]
      exact ⟨(nomatch ·), (nomatch ·)⟩
    · rw [Part.timerMatchesState_iff, sameTimer, sameState]
      exact Part.timerMatchesState_iff.mp h.2
  · rw [run] at stopping
    cases stopping

theorem Part.stateAgrees_applyAttempt {p : Part} (h : p.stateAgrees) : p.applyAttempt.1.stateAgrees := by
  obtain ⟨records, timer, -, opState, -⟩ := p.applyAttempt_keeps
  exact Part.stateAgrees_congr opState records (by rw [timer]) h

/-- Only in RUN does a boundary apply anything (R129). -/
theorem Part.applyAttempt_notRun {p : Part} (h : p.opState ≠ .run) : p.applyAttempt = (p, 0#16) := by
  unfold Part.applyAttempt
  rw [if_neg (fun c => h c.1)]

theorem Part.stateAgrees_deliverBoundary {p : Part} (h : p.stateAgrees) : p.deliverBoundary.stateAgrees := by
  by_cases run : p.opState = .run
  · obtain ⟨-, -, -, opState, -⟩ := p.applyAttempt_keeps
    exact (Part.moves_deliverBoundary (fun _ _ => rfl)).stateAgrees_run (opState.trans run)
      (Part.stateAgrees_applyAttempt h)
  · refine (Part.moves_deliverBoundary (fun w applied => ?_)).stateAgrees (Part.stateAgrees_applyAttempt h)
    simp [Part.applyAttempt_notRun run] at applied

/-- Step 2 of a retire's order: the record stays in service only as RETIRING (R68, R69, R70). -/
theorem Part.retireRecord_retiring {p : Part} {w : Win} {sv : Service} (h : (p.retireRecord w).service w = some sv) :
    sv.retiring = true := by
  unfold Part.retireRecord at h
  dsimp only at h
  split at h
  · rename_i none
    rw [none] at h
    cases h
  · rw [Part.service_setService_same] at h
    cases h
    rfl

theorem Part.service_of_records {p q : Part} (h : q.records = p.records) (w : Win) : q.service w = p.service w := by
  simp only [Part.service, Part.record, h]

theorem Part.join_records (p : Part) (w : Win) (job : Job) : (p.join w job).records = p.records := by
  unfold Part.join
  split <;> rfl

theorem Part.convertToRetire_records (p : Part) (w : Win) : (p.convertToRetire w).records = p.records := by
  unfold Part.convertToRetire
  split
  · exact p.join_records w _
  · rfl

/-- A window that retires is OFF or RETIRING after it (R68 to R70). -/
theorem Part.retire_retiring {p : Part} {w : Win} {sv : Service} (h : (p.retire w).service w = some sv) :
    sv.retiring = true := by
  unfold Part.retire at h
  dsimp only at h
  split at h
  · exact Part.retireRecord_retiring h
  · split at h
    · rw [Part.service_of_records (Part.noteBoth_records _ _ _), Part.service_dropService_same] at h
      cases h
    · rw [Part.service_of_records (Part.convertToRetire_records _ _)] at h
      exact Part.retireRecord_retiring h

/-- What STANDBY taken in RUN does to one window: a LIVE one retires (R159). -/
def Part.retireLive (q : Part) (w : Win) : Part :=
  match q.service w with
  | some sv => if sv.retiring then q else q.retire w
  | none => q

theorem Part.enterStopping_eq (p : Part) : p.enterStopping =
    (allWindows.foldl Part.retireLive { p with opState := .stopping }).checkStandby.settle := rfl

theorem Part.moves_retireLive {en : Bool} (p : Part) (w : Win) : Part.Moves en p (p.retireLive w) := by
  unfold Part.retireLive
  repeat' split
  · exact .refl p
  · exact p.moves_retire w
  · exact .refl p

theorem Part.retireLive_retiring {p : Part} {w : Win} {sv : Service} (h : (p.retireLive w).service w = some sv) :
    sv.retiring = true := by
  unfold Part.retireLive at h
  split at h
  · rename_i sv' hs
    split at h
    · rw [hs] at h
      cases h
      assumption
    · exact Part.retire_retiring h
  · rename_i hs
    rw [hs] at h
    cases h

/-- After every window of a list was met, none of them is LIVE. -/
theorem Part.foldl_retireLive_retiring (l : List Win) (p : Part) (w : Win) (met : w ∈ l) :
    ∀ sv, (l.foldl Part.retireLive p).service w = some sv → sv.retiring = true := by
  induction l generalizing p with
  | nil => cases met
  | cons v rest ih =>
    rw [List.foldl_cons]
    rcases List.mem_cons.mp met with rfl | later
    · exact ((Part.moves_foldl (fun q x => q.moves_retireLive x) rest _).records w).retiring
        (fun _ hs => Part.retireLive_retiring hs)
    · exact ih _ later

theorem Part.stateAgrees_enterStopping {p : Part} (run : p.opState = .run) (h : p.stateAgrees) :
    p.enterStopping.stateAgrees := by
  rw [Part.enterStopping_eq]
  refine (Part.moves_settle _).stateAgrees ((Part.moves_checkStandby _).stateAgrees ?_)
  have moves : Part.Moves false { p with opState := .stopping } (allWindows.foldl Part.retireLive { p with opState := .stopping }) :=
    Part.moves_foldl (fun q w => q.moves_retireLive w) allWindows _
  have running : p.timer.running = true := by
    have := Part.timerMatchesState_iff.mp h.2
    rwa [run] at this
  have retired := Part.foldl_retireLive_retiring allWindows { p with opState := .stopping }
  rcases moves.control with ⟨sameTimer, sameState⟩ | ⟨-, standby, stopped, allOff⟩
  · refine ⟨Part.windowsMatchState_iff.mpr ⟨fun st => ?_, fun _ w => retired w (mem_allWindows w)⟩, ?_⟩
    · rw [sameState] at st
      cases st
    · rw [Part.timerMatchesState_iff, sameTimer, sameState]
      exact running
  · refine ⟨Part.windowsMatchState_iff.mpr ⟨fun _ => allOff rfl, fun st => ?_⟩, ?_⟩
    · rw [standby] at st
      cases st
    · rw [Part.timerMatchesState_iff, stopped, standby]
      rfl

theorem Part.stateAgrees_enterRun (p : Part) : p.enterRun.stateAgrees := by
  refine (Part.moves_settle _).stateAgrees ?_
  refine Part.Moves.stateAgrees_run (Part.moves_foldl (fun q w => ?_) allWindows _) rfl ⟨rfl, rfl⟩
  split
  · exact q.moves_enable w
  · exact .refl q

/-- The shared operations keep the windows and the timer in agreement with the operating state. -/
theorem Part.kept_stateAgrees : Part.Kept Part.stateAgrees where
  reset := ⟨by decide, rfl⟩
  ports _ _ := Part.stateAgrees_congr rfl rfl rfl
  timer _ _ running := Part.stateAgrees_congr rfl rfl running
  softReset _ _ := Part.stateAgrees_congr rfl rfl rfl
  staging _ _ := Part.stateAgrees_congr rfl rfl rfl
  arbiter _ _ _ := Part.stateAgrees_congr rfl rfl rfl
  masks _ _ := Part.stateAgrees_congr rfl rfl rfl
  noticeMasks _ _ _ _ _ := Part.stateAgrees_congr rfl rfl rfl
  polled _ _ _ _ := Part.stateAgrees_congr rfl rfl rfl
  globals _ _ _ := Part.stateAgrees_congr rfl rfl rfl
  noteGlobal p k := (p.moves_noteGlobal k).stateAgrees
  round p := p.moves_round.stateAgrees
  offer p := p.moves_offer.stateAgrees
  deliver p m word := (p.moves_deliver m word).stateAgrees
  deliverLast p m word := (p.moves_deliverLast m word).stateAgrees
  timeout p q := (p.moves_timeout q).stateAgrees
  proceed p q a c := (p.moves_proceed q a c).stateAgrees
  deliverBoundary _ := Part.stateAgrees_deliverBoundary
  enterRun p _ _ := p.stateAgrees_enterRun
  enterStopping _ run := Part.stateAgrees_enterStopping run

/-- Settles O57: every shared operation keeps the agreement. -/
theorem operatingStateGovernsWindowsAndTimer : Obligations.OperatingStateGovernsWindowsAndTimer :=
  Part.kept_stateAgrees.keptByStep

end Sys2Proof.Machine
end

section
/-!
Sets of lines and in-copy marks, line by line (04_copy_engine.md R15, R79): what each set operation holds, and which
copier marks a line.
-/

namespace Sys2Proof.Machine

@[simp] theorem lineIn_noLines (l : Nat) : lineIn noLines l = false := by simp [lineIn, noLines]

@[simp] theorem lineIn_joinLines (s t : LineSet) (l : Nat) : lineIn (joinLines s t) l = (lineIn s l || lineIn t l) := by
  simp [lineIn, joinLines]

@[simp] theorem lineIn_lessLines (s t : LineSet) (l : Nat) : lineIn (lessLines s t) l = (lineIn s l && !lineIn t l) := by
  simp only [lineIn, lessLines, BitVec.getLsbD_and, BitVec.getLsbD_not]
  by_cases h : l < 64
  · simp [h]
  · simp [BitVec.getLsbD_of_ge s l (by omega)]

theorem lineIn_lt {s : LineSet} {l : Nat} (h : lineIn s l = true) : l < 64 := BitVec.lt_of_getLsbD h

/-- The set of one line holds that line, if it is a line at all. -/
theorem lineIn_single {line l : Nat} : lineIn (addLine noLines line) l = true ↔ l = line ∧ l < 64 := by
  simp only [lineIn, addLine, noLines, BitVec.getLsbD_or, BitVec.getLsbD_zero, Bool.false_or, BitVec.getLsbD_twoPow,
    Bool.and_eq_true, decide_eq_true_eq]
  omega

theorem eq_noLines_iff {s : LineSet} : s = noLines ↔ ∀ l, lineIn s l = false := BitVec.zero_iff_eq_false

/-- The lowest line of a set is in it. -/
theorem lineIn_lowest {s : LineSet} {l : Nat} (h : lowestLine? s = some l) : lineIn s l = true :=
  List.find?_some h

/-- A channel's mark is the line it has in copy for the window it serves (R15). -/
theorem ChannelWork.lineIn_mark {k : ChannelWork} {w : Win} {l : Nat} : lineIn (k.mark w) l = true ↔
    ∃ job cp, k = .serving w job (some cp) ∧ l = cp.line ∧ l < 64 := by
  match k with
  | .idle => simp [ChannelWork.mark]
  | .draining v cp => simp [ChannelWork.mark]
  | .serving v job none => simp [ChannelWork.mark]
  | .serving v job (some cp) =>
    by_cases hv : v = w
    · subst hv
      simp [ChannelWork.mark, lineIn_single]
    · simp [ChannelWork.mark, hv]

theorem TouchWork.lineIn_mark {k : TouchWork} {w : Win} {l : Nat} : lineIn (k.mark w) l = true ↔
    ∃ cp, k = .copying w cp ∧ l = cp.line ∧ l < 64 := by
  match k with
  | .idle => simp [TouchWork.mark]
  | .draining v cp => simp [TouchWork.mark]
  | .copying v cp =>
    by_cases hv : v = w
    · subst hv
      simp [TouchWork.mark, lineIn_single]
    · simp [TouchWork.mark, hv]

theorem Part.lineIn_channelMarks {p : Part} {w : Win} {l : Nat} : lineIn (p.channelMarks w) l = true ↔
    ∃ c, lineIn ((p.channel c).work.mark w) l = true := by
  simp only [Part.channelMarks, lineIn_joinLines, Bool.or_eq_true]
  constructor
  · rintro ((h | h) | (h | h))
    exacts [⟨0, h⟩, ⟨1, h⟩, ⟨2, h⟩, ⟨3, h⟩]
  · rintro ⟨c, h⟩
    match c with
    | 0 => exact .inl (.inl h)
    | 1 => exact .inl (.inr h)
    | 2 => exact .inr (.inl h)
    | 3 => exact .inr (.inr h)

/-- A line is in copy where a channel or the touch copier marks it (R15). -/
theorem Part.lineIn_inCopyLines {p : Part} {w : Win} {l : Nat} : lineIn (p.inCopyLines w) l = true ↔
    (∃ c, lineIn ((p.channel c).work.mark w) l = true) ∨ lineIn (p.copy.touch.work.mark w) l = true := by
  rw [Part.inCopyLines, lineIn_joinLines, Bool.or_eq_true, Part.lineIn_channelMarks]

end Sys2Proof.Machine
end

section
/-!
The Copy Engine's laws, part by part (R82, R86): who waits and who is served, the touch queue, and the marks; and what
each kind of change asks for to keep them.
-/

namespace Sys2Proof.Machine

/-- The window a channel serves. -/
def ChannelWork.served? : ChannelWork → Option Win
  | .serving w _ _ => some w
  | _ => none

theorem ChannelWork.served?_iff {k : ChannelWork} {w : Win} :
    k.served? = some w ↔ ∃ job copy, k = .serving w job copy := by
  cases k <;> simp [ChannelWork.served?]

/-- The windows on the waiting list, in its order. -/
def Part.waitingWindows (p : Part) : List Win := p.copy.waiting.map (fun e => e.window)

/-- The window has a place with the Copy Engine: it waits, or a channel serves it (R82). -/
def Part.hasPlace (p : Part) (w : Win) : Prop := w ∈ p.waitingWindows ∨ ∃ c, (p.channel c).work.served? = some w

/-- R82 of the waiting list and the channels. -/
structure Part.JobsOk (p : Part) : Prop where
  once : p.waitingWindows.Nodup
  alone : ∀ c d w, (p.channel c).work.served? = some w → (p.channel d).work.served? = some w → c = d
  apart : ∀ c w, (p.channel c).work.served? = some w → w ∉ p.waitingWindows
  promoted : promotedFirst p.copy.waiting = true
  inService : ∀ w, p.hasPlace w → (p.service w).isSome = true

theorem Part.servedWindows_eq (p : Part) :
    p.servedWindows = allChannels.filterMap (fun c => (p.channel c).work.served?) := by
  unfold Part.servedWindows
  congr 1

theorem Part.mem_servedWindows {p : Part} {w : Win} :
    w ∈ p.servedWindows ↔ ∃ c, (p.channel c).work.served? = some w := by
  rw [Part.servedWindows_eq, List.mem_filterMap]
  exact ⟨fun ⟨c, _, h⟩ => ⟨c, h⟩, fun ⟨c, h⟩ => ⟨c, mem_allChannels c, h⟩⟩

theorem allChannels_nodup : allChannels.Nodup := by decide

/-- No window is served twice exactly where no two channels serve one. -/
theorem filterMap_nodup_iff {f : Chan → Option Win} : (allChannels.filterMap f).Nodup ↔
    ∀ c d w, f c = some w → f d = some w → c = d := by
  constructor
  · intro h c d w hc hd
    by_contra ne
    have : Std.Symm (fun c d => ∀ b, f c = some b → ∀ b', f d = some b' → b ≠ b') :=
      ⟨fun c d hr b hb b' hb' e => hr b' hb' b hb e.symm⟩
    exact (List.pairwise_filterMap.mp h).forall (mem_allChannels c) (mem_allChannels d) ne w hc w hd rfl
  · intro h
    refine List.Nodup.filterMap (fun c d w hc hd => ?_) allChannels_nodup
    exact h c d w hc hd

/-- An entry's window with its promoted mark. -/
def WaitEntry.place (e : WaitEntry) : Win × Bool := (e.window, e.promoted)

theorem Part.waitingWindows_eq (p : Part) : p.waitingWindows = (p.copy.waiting.map WaitEntry.place).map Prod.fst := by
  rw [List.map_map]
  rfl

/-- Promoted entries stand ahead of the others (R82). -/
theorem promotedFirst_iff {l : List WaitEntry} : promotedFirst l = true ↔
    (l.map WaitEntry.place).Pairwise (fun a b => b.2 = true → a.2 = true) := by
  induction l with
  | nil => simp [promotedFirst]
  | cons e rest ih =>
    rw [List.map_cons, List.pairwise_cons, promotedFirst, Bool.and_eq_true, ih, Bool.or_eq_true, List.all_eq_true]
    refine and_congr_left fun _ => ?_
    simp only [List.mem_map, forall_exists_index, and_imp, forall_apply_eq_imp_iff₂, WaitEntry.place]
    cases e.promoted <;> simp

/-- The waiting list's law, in its parts. -/
theorem Part.waitingOk_iff {p : Part} : p.waitingOk = true ↔ p.JobsOk := by
  have windows : p.copy.waiting.map (fun e => e.window) = p.waitingWindows := rfl
  simp only [Part.waitingOk, Bool.and_eq_true, decide_eq_true_eq, List.all_eq_true, windows, List.nodup_append,
    List.mem_append, Part.mem_servedWindows]
  rw [Part.servedWindows_eq, filterMap_nodup_iff]
  constructor
  · rintro ⟨⟨⟨once, alone, apart⟩, promoted⟩, inService⟩
    exact ⟨once, alone, fun c w hc hw => apart w hw w ⟨c, hc⟩ rfl, promoted, inService⟩
  · rintro ⟨once, alone, apart, promoted, inService⟩
    exact ⟨⟨⟨once, alone, fun v hv w ⟨c, hc⟩ e => apart c w hc (e ▸ hv)⟩, promoted⟩, inService⟩

/-- No line of a window is in copy by a channel and by the touch copier (R82). -/
def Part.MarksApart (p : Part) : Prop :=
  ∀ c w l, lineIn ((p.channel c).work.mark w) l = true → lineIn (p.copy.touch.work.mark w) l = false

theorem Part.marksDisjoint_iff {p : Part} : p.marksDisjoint = true ↔ p.MarksApart := by
  have meets : ∀ w, p.channelMarks w &&& p.copy.touch.work.mark w = 0#64 ↔
      ∀ l, lineIn (p.channelMarks w) l = true → lineIn (p.copy.touch.work.mark w) l = false := by
    intro w
    rw [BitVec.zero_iff_eq_false]
    refine forall_congr' fun l => ?_
    rw [BitVec.getLsbD_and, Bool.and_eq_false_imp]
    rfl
  simp only [Part.marksDisjoint, List.all_eq_true, decide_eq_true_eq, meets, Part.lineIn_channelMarks]
  exact ⟨fun h c w l hc => h w (mem_allWindows w) l ⟨c, hc⟩, fun h w _ l ⟨c, hc⟩ => h c w l hc⟩

/-- The entries in service, by window and line. -/
def inServiceLines (l : List TouchEntry) : List (Win × Nat) :=
  (l.filter (fun e => e.inService)).map (fun e => (e.window, e.line))

/-- The line the touch copier copies for a window in service of the queue. -/
def TouchWork.copied : TouchWork → List (Win × Nat)
  | .copying w cp => [(w, cp.line)]
  | _ => []

/-- The touch queue's law over a queue and the touch copier's work (R86, R87, R95). -/
def QueueLaw (l : List TouchEntry) (k : TouchWork) : Prop :=
  (l.map (fun e => e.port)).Nodup ∧ inServiceLines l = k.copied

theorem Part.queueOk_iff_law {p : Part} : p.queueOk = true ↔ QueueLaw p.copy.queue p.copy.touch.work := by
  unfold Part.queueOk QueueLaw inServiceLines
  cases p.copy.touch.work <;> simp only [Bool.and_eq_true, decide_eq_true_eq, TouchWork.copied]

/-- The Copy Engine's laws. -/
structure Part.CopyLaws (p : Part) : Prop where
  jobs : p.JobsOk
  queue : p.queueOk = true
  marks : p.MarksApart

theorem Part.copyLaws_iff {p : Part} : p.CopyLaws ↔
    p.waitingOk = true ∧ p.queueOk = true ∧ p.marksDisjoint = true := by
  rw [Part.waitingOk_iff, Part.marksDisjoint_iff]
  exact ⟨fun h => ⟨h.jobs, h.queue, h.marks⟩, fun ⟨jobs, queue, marks⟩ => ⟨jobs, queue, marks⟩⟩

/-! ## Changes that add nothing -/

/-- A channel's work that serves no other window and marks no other line. -/
def ChannelWork.Within (k k' : ChannelWork) : Prop :=
  (∀ w, k.served? = some w → k'.served? = some w) ∧ ∀ w l, lineIn (k.mark w) l = true → lineIn (k'.mark w) l = true

theorem ChannelWork.Within.refl (k : ChannelWork) : k.Within k := ⟨fun _ h => h, fun _ _ h => h⟩

theorem ChannelWork.within_idle (k : ChannelWork) : ChannelWork.idle.Within k :=
  ⟨(nomatch ·, ·), fun w l h => by simp [ChannelWork.mark] at h⟩

theorem ChannelWork.within_draining (k : ChannelWork) (w : Win) (cp : LineCopy) :
    (ChannelWork.draining w cp).Within k :=
  ⟨(nomatch ·, ·), fun w l h => by simp [ChannelWork.mark] at h⟩

theorem Part.work_setChannelWork (p : Part) (c d : Chan) (k : ChannelWork) :
    ((p.setChannelWork c k).channel d).work = if d = c then k else (p.channel d).work := by
  by_cases h : d = c
  · subst h
    simp [Part.setChannelWork]
  · rw [Part.setChannelWork, Part.channel_setChannel_ne p h, if_neg h]

/-- The waiting list and the channels only lose places, and every window that keeps its place is still in service. -/
theorem Part.JobsOk.shrink {p q : Part} (h : p.JobsOk)
    (places : (q.copy.waiting.map WaitEntry.place).Sublist (p.copy.waiting.map WaitEntry.place))
    (served : ∀ c w, (q.channel c).work.served? = some w → (p.channel c).work.served? = some w)
    (service : ∀ w, q.hasPlace w → (p.service w).isSome = true → (q.service w).isSome = true) : q.JobsOk := by
  have windows : q.waitingWindows.Sublist p.waitingWindows := by
    rw [Part.waitingWindows_eq, Part.waitingWindows_eq]
    exact places.map _
  refine ⟨h.once.sublist windows, fun c d w hc hd => h.alone c d w (served c w hc) (served d w hd),
    fun c w hc hw => h.apart c w (served c w hc) (windows.subset hw),
    promotedFirst_iff.mpr ((promotedFirst_iff.mp h.promoted).sublist places), fun w place => ?_⟩
  exact service w place (h.inService w (place.imp (fun hw => windows.subset hw) fun ⟨c, hc⟩ => ⟨c, served c w hc⟩))

theorem Part.MarksApart.shrink {p q : Part} (h : p.MarksApart)
    (channels : ∀ c w l, lineIn ((q.channel c).work.mark w) l = true → lineIn ((p.channel c).work.mark w) l = true)
    (touch : ∀ w l, lineIn (q.copy.touch.work.mark w) l = true → lineIn (p.copy.touch.work.mark w) l = true) :
    q.MarksApart := by
  intro c w l hc
  by_contra ht
  have := h c w l (channels c w l hc)
  rw [touch w l (by simpa using ht)] at this
  cases this

theorem Part.CopyLaws.shrink {p q : Part} (h : p.CopyLaws)
    (places : (q.copy.waiting.map WaitEntry.place).Sublist (p.copy.waiting.map WaitEntry.place))
    (work : ∀ c, (q.channel c).work.Within (p.channel c).work)
    (service : ∀ w, q.hasPlace w → (p.service w).isSome = true → (q.service w).isSome = true)
    (queue : q.queueOk = true)
    (touch : ∀ w l, lineIn (q.copy.touch.work.mark w) l = true → lineIn (p.copy.touch.work.mark w) l = true) :
    q.CopyLaws :=
  ⟨h.jobs.shrink places (fun c => (work c).1) service, queue, h.marks.shrink (fun c => (work c).2) touch⟩

theorem Part.queueOk_congr {p q : Part} (queue : q.copy.queue = p.copy.queue)
    (touch : q.copy.touch.work = p.copy.touch.work) (h : p.queueOk = true) : q.queueOk = true := by
  rw [Part.queueOk_iff_law] at *
  rw [queue, touch]
  exact h

/-- The Copy Engine as it was, and no window out of service. -/
def Part.SameCopy (p q : Part) : Prop :=
  q.copy = p.copy ∧ ∀ w, (p.service w).isSome = true → (q.service w).isSome = true

theorem Part.SameCopy.refl (p : Part) : Part.SameCopy p p := ⟨rfl, fun _ h => h⟩

theorem Part.SameCopy.trans {p q r : Part} (h : Part.SameCopy p q) (k : Part.SameCopy q r) : Part.SameCopy p r :=
  ⟨k.1.trans h.1, fun w hw => k.2 w (h.2 w hw)⟩

theorem Part.SameCopy.of_records {p q : Part} (copy : q.copy = p.copy) (records : q.records = p.records) :
    Part.SameCopy p q :=
  ⟨copy, fun w h => by rwa [Part.service_of_records records]⟩

theorem Part.sameCopy_setRecord {p : Part} {w : Win} {r : Record} (h : r.service.isSome = true) :
    Part.SameCopy p (p.setRecord w r) :=
  ⟨rfl, fun v hv => by
    by_cases e : v = w
    · subst e
      simpa [Part.service] using h
    · simpa [Part.service, Part.record_setRecord_ne p e] using hv⟩

theorem Part.sameCopy_setService (p : Part) (w : Win) (sv : Service) : Part.SameCopy p (p.setService w sv) :=
  Part.sameCopy_setRecord rfl

theorem Part.sameCopy_note (p : Part) (q : Port) (w : Win) (k : Notice) : Part.SameCopy p (p.note q w k) :=
  .of_records rfl rfl

theorem Part.hasPlace_congr {p q : Part} (copy : q.copy = p.copy) {w : Win} : q.hasPlace w ↔ p.hasPlace w := by
  simp only [Part.hasPlace, Part.waitingWindows, Part.channel, copy]

theorem Part.JobsOk.sameCopy {p q : Part} (h : p.JobsOk) (same : Part.SameCopy p q) : q.JobsOk :=
  h.shrink (by rw [same.1]) (fun c w hc => by simpa only [Part.channel, same.1] using hc) (fun w _ => same.2 w)

theorem Part.CopyLaws.sameCopy {p q : Part} (h : p.CopyLaws) (same : Part.SameCopy p q) : q.CopyLaws :=
  ⟨h.jobs.sameCopy same, Part.queueOk_congr (by rw [same.1]) (by rw [same.1]) h.queue,
    h.marks.shrink (fun c w l => by simp only [Part.channel, same.1]; exact id) (fun w l => by rw [same.1]; exact id)⟩

/-- The laws of the jobs and of the marks where the touch queue and the touch copier stay. -/
theorem Part.CopyLaws.of_jobs {p q : Part} (h : p.CopyLaws) (jobs : q.JobsOk)
    (marks : ∀ c w l, lineIn ((q.channel c).work.mark w) l = true → lineIn ((p.channel c).work.mark w) l = true)
    (queue : q.copy.queue = p.copy.queue) (touch : q.copy.touch = p.copy.touch) : q.CopyLaws :=
  ⟨jobs, Part.queueOk_congr queue (by rw [touch]) h.queue, h.marks.shrink marks (fun w l => by rw [touch]; exact id)⟩

/-! ## Places -/

theorem findSome?_only {α β : Type} {l : List α} {f : α → Option β} {x : α} (mem : x ∈ l)
    (h : ∀ y, y ∈ l → y ≠ x → f y = none) : l.findSome? f = f x := by
  induction l with
  | nil => cases mem
  | cons a rest ih =>
    rw [List.findSome?_cons]
    by_cases ha : a = x
    · subst ha
      cases hf : f a with
      | some b => rfl
      | none =>
        refine List.findSome?_eq_none_iff.mpr fun y hy => ?_
        by_cases hya : y = a
        · exact hya ▸ hf
        · exact h y (List.mem_cons_of_mem _ hy) hya
    · rw [h a List.mem_cons_self ha]
      have later : x ∈ rest := (List.mem_cons.mp mem).resolve_left (fun e => ha e.symm)
      exact ih later (fun y hy => h y (List.mem_cons_of_mem _ hy))

theorem Part.servedBy_none_iff {p : Part} {w : Win} :
    p.servedBy w = none ↔ ∀ c, (p.channel c).work.served? ≠ some w := by
  rw [Part.servedBy, List.findSome?_eq_none_iff]
  have one : ∀ k : ChannelWork, ∀ c : Chan, (match k with
      | .serving w' job _ => if w' = w then some (c, job) else none
      | _ => none) = none ↔ k.served? ≠ some w := by
    intro k c
    cases k <;> simp [ChannelWork.served?]
  constructor
  · exact fun h c => (one _ c).mp (h c (mem_allChannels c))
  · exact fun h c _ => (one _ c).mpr (h c)

/-- The one channel that serves a window. -/
theorem Part.servedBy_only {p : Part} {c : Chan} {w : Win} {job : Job} {copy : Option LineCopy}
    (serves : (p.channel c).work = .serving w job copy)
    (alone : ∀ d, d ≠ c → (p.channel d).work.served? ≠ some w) : p.servedBy w = some (c, job) := by
  unfold Part.servedBy
  rw [findSome?_only (mem_allChannels c)]
  · simp [serves]
  · intro d _ hd
    have other := alone d hd
    revert other
    cases (p.channel d).work <;> simp [ChannelWork.served?]

theorem Part.entryOf_none_iff {p : Part} {w : Win} : p.entryOf w = none ↔ w ∉ p.waitingWindows := by
  simp [Part.entryOf, Part.waitingWindows, List.find?_eq_none]

/-- A window has no copy status exactly where it neither waits nor is served (R21). -/
theorem Part.copyStatus_none_iff {p : Part} {w : Win} : p.copyStatus w = .none ↔ ¬ p.hasPlace w := by
  rw [Part.hasPlace, not_or, not_exists, ← Part.entryOf_none_iff]
  have served := Part.servedBy_none_iff (p := p) (w := w)
  unfold Part.copyStatus
  cases hs : p.servedBy w with
  | some x =>
    obtain ⟨c, job⟩ := x
    rw [hs] at served
    simp only [reduceCtorEq, false_iff] at served
    simp [served]
  | none =>
    have free := served.mp hs
    cases he : p.entryOf w with
    | none => simpa using free
    | some e => simp

/-! ## The waiting list -/

theorem Part.copyLaws_join {p : Part} (h : p.CopyLaws) {w : Win} (inService : (p.service w).isSome = true) (job : Job) :
    (p.join w job).CopyLaws := by
  unfold Part.join
  split
  case isFalse => exact h
  case isTrue free =>
    have noPlace := Part.copyStatus_none_iff.mp free
    have notWaiting : w ∉ p.waitingWindows := fun hw => noPlace (.inl hw)
    have windows : (p.setWaiting (p.copy.waiting ++ [⟨w, job, false⟩])).waitingWindows = p.waitingWindows ++ [w] := by
      simp [Part.waitingWindows, Part.setWaiting]
    refine h.of_jobs ⟨?once, h.jobs.alone, ?apart, ?promoted, ?inService⟩ (fun _ _ _ => id) rfl rfl
    case once =>
      rw [windows]
      exact List.Nodup.append h.jobs.once (List.nodup_singleton w) (by simpa using notWaiting)
    case apart =>
      intro c v hc hv
      rw [windows, List.mem_append, List.mem_singleton] at hv
      rcases hv with hv | rfl
      · exact h.jobs.apart c v hc hv
      · exact noPlace (.inr ⟨c, hc⟩)
    case promoted =>
      rw [promotedFirst_iff]
      show ((p.copy.waiting ++ [(⟨w, job, false⟩ : WaitEntry)]).map WaitEntry.place).Pairwise _
      rw [List.map_append, List.pairwise_append]
      refine ⟨promotedFirst_iff.mp h.jobs.promoted, List.pairwise_singleton _ _, fun a _ b hb promoted => ?_⟩
      rw [List.map_singleton, List.mem_singleton] at hb
      subst hb
      cases promoted
    case inService =>
      intro v place
      rw [Part.hasPlace, windows, List.mem_append, List.mem_singleton] at place
      rcases place with (hv | rfl) | hc
      · exact h.jobs.inService v (.inl hv)
      · exact inService
      · exact h.jobs.inService v (.inr hc)

/-- Where promoted entries stand ahead, the place of a promotion is between them and the others (R84). -/
theorem placePromoted_eq {l : List WaitEntry} (h : promotedFirst l = true) (e : WaitEntry) :
    placePromoted e l = l.filter (fun x => x.promoted) ++ e :: l.filter (fun x => !x.promoted) := by
  induction l with
  | nil => rfl
  | cons x rest ih =>
    obtain ⟨ahead, later⟩ := Bool.and_eq_true_iff.mp h
    unfold placePromoted
    by_cases hx : x.promoted = true
    · simp [hx, ih later]
    · have none : ∀ y ∈ rest, y.promoted = false := by simpa [hx] using ahead
      have kept : rest.filter (fun y => !y.promoted) = rest := List.filter_eq_self.mpr (fun y hy => by simp [none y hy])
      have gone : rest.filter (fun y => y.promoted) = [] := List.filter_eq_nil_iff.mpr (fun y hy => by simp [none y hy])
      simp [hx, kept, gone]

theorem promotedFirst_filter {l : List WaitEntry} (h : promotedFirst l = true) (f : WaitEntry → Bool) :
    promotedFirst (l.filter f) = true :=
  promotedFirst_iff.mpr ((promotedFirst_iff.mp h).sublist (List.filter_sublist.map _))

theorem promotedFirst_placePromoted {l : List WaitEntry} (h : promotedFirst l = true) {e : WaitEntry}
    (promoted : e.promoted = true) : promotedFirst (placePromoted e l) = true := by
  rw [placePromoted_eq h, promotedFirst_iff, List.map_append, List.map_cons, List.pairwise_append, List.pairwise_cons]
  have ahead : ∀ a ∈ (l.filter (fun x => x.promoted)).map WaitEntry.place, a.2 = true := by
    simp only [List.mem_map, List.mem_filter, WaitEntry.place, forall_exists_index, and_imp]
    rintro a x - hx rfl
    exact hx
  refine ⟨promotedFirst_iff.mp (promotedFirst_filter h _), ⟨fun _ _ _ => promoted, ?_⟩, fun a ha _ _ _ => ahead a ha⟩
  exact promotedFirst_iff.mp (promotedFirst_filter h _)

theorem placePromoted_perm (e : WaitEntry) (l : List WaitEntry) : (placePromoted e l).Perm (e :: l) := by
  induction l with
  | nil => rfl
  | cons x rest ih =>
    unfold placePromoted
    split
    · exact (ih.cons x).trans (List.Perm.swap e x rest)
    · rfl

theorem Part.copyLaws_promote {p : Part} (h : p.CopyLaws) (w : Win) : (p.promote w).CopyLaws := by
  unfold Part.promote
  split
  case h_1 => exact h
  case h_2 e found =>
    split
    case isTrue => exact h
    case isFalse =>
      have isW : e.window = w := by simpa using List.find?_some found
      have mem : w ∈ p.waitingWindows := by
        rw [← isW]
        exact List.mem_map_of_mem (List.mem_of_find?_eq_some found)
      generalize hl : placePromoted { e with promoted := true } (p.copy.waiting.filter (fun x => x.window ≠ w)) = l
      have perm : (l.map (fun x => x.window)).Perm (w :: p.waitingWindows.filter (fun v => decide (v ≠ w))) := by
        have := (hl ▸ placePromoted_perm { e with promoted := true } (p.copy.waiting.filter (fun x => x.window ≠ w))).map
          (fun x : WaitEntry => x.window)
        rw [List.map_cons, isW] at this
        rwa [Part.waitingWindows, List.filter_map]
      have sub : ∀ v, v ∈ l.map (fun x => x.window) → v ∈ p.waitingWindows := by
        intro v hv
        rcases List.mem_cons.mp (perm.mem_iff.mp hv) with rfl | hv
        · exact mem
        · exact (List.mem_filter.mp hv).1
      have windows : (p.setWaiting l).waitingWindows = l.map (fun x => x.window) := rfl
      refine h.of_jobs ⟨?once, h.jobs.alone, ?apart, ?promoted, ?inService⟩ (fun _ _ _ => id) rfl rfl
      case once =>
        rw [windows, perm.nodup_iff, List.nodup_cons]
        exact ⟨by simp, h.jobs.once.filter _⟩
      case apart => exact fun c v hc hv => h.jobs.apart c v hc (sub v hv)
      case promoted =>
        exact hl ▸ promotedFirst_placePromoted (promotedFirst_filter h.jobs.promoted _) rfl
      case inService => exact fun v place => h.jobs.inService v (place.imp (sub v) id)

theorem Part.copyLaws_giveBack {p : Part} (h : p.CopyLaws) {c : Chan} {w : Win} {job : Job} {copy : Option LineCopy}
    (serves : (p.channel c).work = .serving w job copy) : (p.giveBack c w job).CopyLaws := by
  have own : (p.channel c).work.served? = some w := by rw [serves]; rfl
  have windows : (p.giveBack c w job).waitingWindows = w :: p.waitingWindows := rfl
  have work : ∀ d, ((p.giveBack c w job).channel d).work = if d = c then .idle else (p.channel d).work :=
    fun d => p.work_setChannelWork c d .idle
  have other : ∀ d v, ((p.giveBack c w job).channel d).work.served? = some v →
      d ≠ c ∧ (p.channel d).work.served? = some v := by
    intro d v hd
    rw [work] at hd
    split at hd
    · cases hd
    · exact ⟨‹_›, hd⟩
  refine h.of_jobs ⟨?once, ?alone, ?apart, ?promoted, ?inService⟩ ?marks rfl rfl
  case once =>
    rw [windows, List.nodup_cons]
    exact ⟨h.jobs.apart c w own, h.jobs.once⟩
  case alone => exact fun d d' v hd hd' => h.jobs.alone d d' v (other d v hd).2 (other d' v hd').2
  case apart =>
    intro d v hd hv
    obtain ⟨ne, served⟩ := other d v hd
    rw [windows, List.mem_cons] at hv
    rcases hv with rfl | hv
    · exact ne (h.jobs.alone d c v served own)
    · exact h.jobs.apart d v served hv
  case promoted =>
    rw [promotedFirst_iff]
    show ((⟨w, job, true⟩ :: p.copy.waiting : List WaitEntry).map WaitEntry.place).Pairwise _
    rw [List.map_cons, List.pairwise_cons]
    exact ⟨fun _ _ _ => rfl, promotedFirst_iff.mp h.jobs.promoted⟩
  case inService =>
    rintro v (hv | ⟨d, hd⟩)
    · rw [windows, List.mem_cons] at hv
      rcases hv with rfl | hv
      · exact h.jobs.inService v (.inr ⟨c, own⟩)
      · exact h.jobs.inService v (.inl hv)
    · exact h.jobs.inService v (.inr ⟨d, (other d v hd).2⟩)
  case marks =>
    intro d v l hd
    rw [work] at hd
    split at hd
    · simp [ChannelWork.mark] at hd
    · exact hd

/-- A channel that serves no window takes the head of the list (R78). -/
theorem Part.copyLaws_takes {p : Part} (h : p.CopyLaws) {c : Chan} {e : WaitEntry} {rest : List WaitEntry}
    (free : (p.channel c).work.served? = none) (waiting : p.copy.waiting = e :: rest) :
    ((p.setWaiting rest).setChannelWork c (.serving e.window e.job none)).CopyLaws := by
  generalize hq : (p.setWaiting rest).setChannelWork c (.serving e.window e.job none) = q
  have windows : p.waitingWindows = e.window :: q.waitingWindows := by
    rw [← hq]
    simp only [Part.waitingWindows, waiting]
    rfl
  have work : ∀ d, (q.channel d).work = if d = c then .serving e.window e.job none else (p.channel d).work := by
    intro d
    rw [← hq]
    exact (p.setWaiting rest).work_setChannelWork c d _
  have served : ∀ d v, (q.channel d).work.served? = some v →
      (d = c ∧ v = e.window) ∨ (d ≠ c ∧ (p.channel d).work.served? = some v) := by
    intro d v hd
    rw [work] at hd
    split at hd
    · exact .inl ⟨‹_›, by simpa [ChannelWork.served?] using hd.symm⟩
    · exact .inr ⟨‹_›, hd⟩
  have headWaits : e.window ∈ p.waitingWindows := windows ▸ List.mem_cons_self
  obtain ⟨headOnce, once⟩ := List.nodup_cons.mp (windows ▸ h.jobs.once)
  refine h.of_jobs ⟨once, ?alone, ?apart, ?promoted, ?inService⟩ ?marks (hq ▸ rfl) (hq ▸ rfl)
  case alone =>
    intro d d' v hd hd'
    rcases served d v hd with ⟨rfl, rfl⟩ | ⟨-, was⟩
    · rcases served d' e.window hd' with ⟨rfl, -⟩ | ⟨-, was'⟩
      · rfl
      · exact absurd headWaits (h.jobs.apart d' _ was')
    · rcases served d' v hd' with ⟨-, rfl⟩ | ⟨-, was'⟩
      · exact absurd headWaits (h.jobs.apart d _ was)
      · exact h.jobs.alone d d' v was was'
  case apart =>
    intro d v hd hv
    rcases served d v hd with ⟨-, rfl⟩ | ⟨-, hd⟩
    · exact headOnce hv
    · exact h.jobs.apart d v hd (windows ▸ List.mem_cons_of_mem _ hv)
  case promoted =>
    have := h.jobs.promoted
    rw [waiting, promotedFirst, Bool.and_eq_true] at this
    rw [← hq]
    exact this.2
  case inService =>
    have service : q.service = p.service := by rw [← hq]; rfl
    rw [service]
    rintro v (hv | ⟨d, hd⟩)
    · exact h.jobs.inService v (.inl (windows ▸ List.mem_cons_of_mem _ hv))
    · rcases served d v hd with ⟨-, rfl⟩ | ⟨-, hd⟩
      · exact h.jobs.inService _ (.inl headWaits)
      · exact h.jobs.inService v (.inr ⟨d, hd⟩)
  case marks =>
    intro d v l hd
    rw [work] at hd
    split at hd
    · simp [ChannelWork.mark] at hd
    · exact hd

/-! ## Channels -/

/-- A channel's work becomes one within what it was. -/
theorem Part.copyLaws_setChannelWork {p : Part} (h : p.CopyLaws) {c : Chan} {k : ChannelWork}
    (within : k.Within (p.channel c).work) : (p.setChannelWork c k).CopyLaws := by
  refine h.shrink (List.Sublist.refl _) (fun d => ?_) (fun w _ => id) h.queue (fun _ _ => id)
  rw [p.work_setChannelWork]
  split
  case isTrue e => exact e ▸ within
  case isFalse => exact .refl _

/-- The line a channel selects is in copy by nobody (R79). -/
theorem Part.copyLaws_selectLine {p : Part} (h : p.CopyLaws) (c : Chan) : (p.selectLine c).CopyLaws := by
  unfold Part.selectLine
  split
  case h_2 => exact h
  case h_1 w job serves =>
    split
    case h_2 => exact h
    case h_1 sv _ =>
      split
      case h_2 => exact h
      case h_1 line lowest =>
        have notInCopy : lineIn (p.inCopyLines w) line = false := by
          have := lineIn_lowest lowest
          rw [lineIn_lessLines, Bool.and_eq_true, Bool.not_eq_true'] at this
          exact this.2
        generalize hk : ChannelWork.serving w job
          (some (sv.startLine (sv.jobSource job) (sv.jobTarget job) line)) = k
        have served : ∀ v, k.served? = some v → (p.channel c).work.served? = some v := by
          rw [← hk, serves]
          exact fun _ => id
        refine ⟨h.jobs.shrink (List.Sublist.refl _) (fun d v hd => ?served) (fun _ _ => id), h.queue, fun d v l hd => ?marks⟩
        case served =>
          rw [p.work_setChannelWork] at hd
          split at hd
          · exact ‹d = c› ▸ served v hd
          · exact hd
        case marks =>
          rw [p.work_setChannelWork] at hd
          split at hd
          · rw [← hk, ChannelWork.lineIn_mark] at hd
            obtain ⟨job', cp, work, hl, -⟩ := hd
            cases work
            subst hl
            rw [← Bool.not_eq_true, Part.lineIn_inCopyLines, not_or, Bool.not_eq_true] at notInCopy
            exact notInCopy.2
          · exact h.marks d v l hd

theorem Part.copyLaws_channelStep {p : Part} (h : p.CopyLaws) (c : Chan) : (p.channelStep c).CopyLaws := by
  unfold Part.channelStep
  split
  case h_1 w job serves =>
    split
    · exact Part.copyLaws_giveBack h serves
    · exact Part.copyLaws_selectLine h c
  case h_2 => exact h

theorem Part.copyLaws_stepChannels {p : Part} (h : p.CopyLaws) : p.stepChannels.CopyLaws :=
  Part.copyLaws_channelStep (Part.copyLaws_channelStep (Part.copyLaws_channelStep (Part.copyLaws_channelStep h 3) 2) 1) 0

end Sys2Proof.Machine
end

section
/-!
The Copy Engine's laws through the touch queue and the touch copier (R86 to R90, R95).
-/

namespace Sys2Proof.Machine

/-- A list that gives every element its own key holds one element of a key. -/
theorem filter_key_eq {α β : Type} [DecidableEq β] {key : α → β} {l : List α} {x : α} (once : (l.map key).Nodup)
    (mem : x ∈ l) : l.filter (fun y => decide (key y = key x)) = [x] := by
  induction l with
  | nil => cases mem
  | cons y rest ih =>
    rw [List.map_cons, List.nodup_cons] at once
    obtain ⟨fresh, once⟩ := once
    rcases List.mem_cons.mp mem with rfl | later
    · have gone : rest.filter (fun y => decide (key y = key x)) = [] :=
        List.filter_eq_nil_iff.mpr fun z hz e =>
          fresh (List.mem_map.mpr ⟨z, hz, of_decide_eq_true e⟩)
      rw [List.filter_cons_of_pos (by simp), gone]
    · have other : ¬ decide (key y = key x) = true := fun e =>
        fresh (of_decide_eq_true e ▸ List.mem_map_of_mem later)
      rw [List.filter_cons, if_neg other, ih once later]

theorem inServiceLines_filter {l : List TouchEntry} {f : TouchEntry → Bool}
    (kept : ∀ e, e.inService = true → f e = true) : inServiceLines (l.filter f) = inServiceLines l := by
  have same : ∀ e : TouchEntry, (e.inService && f e) = e.inService := fun e => by
    cases h : e.inService
    · rfl
    · exact kept e h
  simp only [inServiceLines, List.filter_filter, same]

/-- A queue that loses waiting entries keeps the law. -/
theorem QueueLaw.filter {l : List TouchEntry} {k : TouchWork} (h : QueueLaw l k) {f : TouchEntry → Bool}
    (kept : ∀ e, e.inService = true → f e = true) : QueueLaw (l.filter f) k :=
  ⟨h.1.sublist (List.filter_sublist.map _), (inServiceLines_filter kept).trans h.2⟩

/-- With nothing in service the touch copier copies nothing (R87, R95). -/
theorem QueueLaw.rest {l : List TouchEntry} {k k' : TouchWork} (h : QueueLaw l k) (idle : k.copied = [])
    (idle' : k'.copied = []) : QueueLaw l k' :=
  ⟨h.1, h.2.trans (idle.trans idle'.symm)⟩

/-- The entry in service leaves the queue as the touch copier becomes IDLE (R89). -/
theorem QueueLaw.served {l : List TouchEntry} {k : TouchWork} (h : QueueLaw l k) :
    QueueLaw (l.filter (fun e => !e.inService)) .idle := by
  refine ⟨h.1.sublist (List.filter_sublist.map _), ?_⟩
  simp [inServiceLines, TouchWork.copied]

/-- A waiting entry joins at the tail. -/
theorem QueueLaw.append {l : List TouchEntry} {k : TouchWork} (h : QueueLaw l k) {q : Port} {w : Win} {line : Nat}
    {ended : Bool} (free : ∀ e ∈ l, e.port ≠ q) : QueueLaw (l ++ [⟨q, w, line, false, ended⟩]) k := by
  obtain ⟨once, copied⟩ := h
  refine ⟨?_, ?_⟩
  · rw [List.map_append]
    refine List.Nodup.append once (List.nodup_singleton _) ?_
    simpa [List.Disjoint] using free
  · rw [← copied]
    simp [inServiceLines]

/-- The entry of a port is put into service where none was (R87). -/
theorem QueueLaw.take {l : List TouchEntry} {k : TouchWork} (h : QueueLaw l k) (idle : k.copied = []) {e : TouchEntry}
    (mem : e ∈ l) {cp : LineCopy} (line : cp.line = e.line) :
    QueueLaw (l.map (fun x => if x.port = e.port then { x with inService := true } else x)) (.copying e.window cp) := by
  obtain ⟨once, copied⟩ := h
  have none : ∀ x ∈ l, x.inService = false := by
    have := copied.trans idle
    simp only [inServiceLines, List.map_eq_nil_iff, List.filter_eq_nil_iff, Bool.not_eq_true] at this
    exact this
  have ports : (fun x : TouchEntry => x.port) ∘ (fun x => if x.port = e.port then { x with inService := true } else x) =
      fun x => x.port := by
    funext x
    simp only [Function.comp]
    split <;> rfl
  have now : l.filter ((fun x : TouchEntry => x.inService) ∘
      (fun x => if x.port = e.port then { x with inService := true } else x)) = [e] := by
    rw [← filter_key_eq once mem]
    refine List.filter_congr fun x hx => ?_
    simp only [Function.comp]
    split
    case isTrue same => simp [same]
    case isFalse other => simp [none x hx, other]
  refine ⟨?_, ?_⟩
  · rw [List.map_map, ports]
    exact once
  · simp [inServiceLines, List.filter_map, now, TouchWork.copied, line]

/-- A change of an entry that is neither its port, its line nor its service. -/
theorem QueueLaw.map {l : List TouchEntry} {k : TouchWork} (h : QueueLaw l k) {f : TouchEntry → TouchEntry}
    (same : ∀ e, (f e).port = e.port ∧ (f e).window = e.window ∧ (f e).line = e.line ∧ (f e).inService = e.inService) :
    QueueLaw (l.map f) k := by
  obtain ⟨once, copied⟩ := h
  have ports : ∀ e, (f e).port = e.port := fun e => (same e).1
  have windows : ∀ e, (f e).window = e.window := fun e => (same e).2.1
  have lines : ∀ e, (f e).line = e.line := fun e => (same e).2.2.1
  have services : ∀ e, (f e).inService = e.inService := fun e => (same e).2.2.2
  refine ⟨?_, ?_⟩
  · simpa only [List.map_map, Function.comp_def, ports] using once
  · simpa only [inServiceLines, List.filter_map, List.map_map, Function.comp_def, windows, lines, services] using copied

/-- A change of the queue and the touch copier's work alone, which marks no further line. -/
theorem Part.CopyLaws.touch {p q : Part} (h : p.CopyLaws) (channels : q.copy.channels = p.copy.channels)
    (waiting : q.copy.waiting = p.copy.waiting) (records : q.records = p.records)
    (queue : QueueLaw q.copy.queue q.copy.touch.work)
    (marks : ∀ w l, lineIn (q.copy.touch.work.mark w) l = true → lineIn (p.copy.touch.work.mark w) l = true ∨
      ∀ c, lineIn ((p.channel c).work.mark w) l = false) : q.CopyLaws := by
  have channel : ∀ c, q.channel c = p.channel c := fun c => by simp only [Part.channel, channels]
  refine ⟨h.jobs.shrink (by rw [waiting]) (fun c w => by rw [channel]; exact id)
    (fun w _ hw => by rwa [Part.service_of_records records]), Part.queueOk_iff_law.mpr queue, fun c w l hc => ?_⟩
  rw [channel] at hc
  by_contra ht
  rcases marks w l (by simpa using ht) with was | apart
  · rw [h.marks c w l hc] at was
    cases was
  · rw [apart c] at hc
    cases hc

theorem Part.CopyLaws.law {p : Part} (h : p.CopyLaws) : QueueLaw p.copy.queue p.copy.touch.work :=
  Part.queueOk_iff_law.mp h.queue

theorem Part.copyLaws_touchTake {p : Part} (h : p.CopyLaws) : p.touchTake.CopyLaws := by
  unfold Part.touchTake
  split
  case h_2 => exact h
  case h_1 idle =>
    split
    case h_2 => exact h
    case h_1 e found =>
      split
      case h_2 => exact h
      case h_1 sv _ =>
        have free := List.find?_some found
        rw [Bool.and_eq_true, Bool.not_eq_true', Bool.not_eq_true'] at free
        refine h.touch rfl rfl rfl ?_ fun w l marked => .inr fun c => ?_
        · exact h.law.take (by rw [idle]; rfl) (List.mem_of_find?_eq_some found) rfl
        · obtain ⟨cp, taken, line, -⟩ := TouchWork.lineIn_mark.mp marked
          cases taken
          have notInCopy := free.2
          rw [← Bool.not_eq_true, Part.lineIn_inCopyLines, not_or, not_exists] at notInCopy
          rw [line, ← Bool.not_eq_true]
          exact notInCopy.1 c

theorem Part.copyLaws_touchRequest {p : Part} (h : p.CopyLaws) (q : Port) (w : Win) (line : Nat) :
    (p.touchRequest q w line).CopyLaws := by
  unfold Part.touchRequest
  split
  case isTrue => exact h.touch rfl rfl rfl h.law (fun _ _ => .inl)
  case isFalse free =>
    have noEntry : ∀ e ∈ p.copy.queue, e.port ≠ q := by simpa using free
    exact Part.copyLaws_touchTake (h.touch (q := p.setQueue _) rfl rfl rfl (h.law.append noEntry) (fun _ _ => .inl))

theorem Part.copyLaws_makeDeferred {p : Part} (h : p.CopyLaws) (q : Port) : (p.makeDeferred q).CopyLaws := by
  have made : ({ p with copy := { p.copy with deferred := p.copy.deferred.set q none } } : Part).CopyLaws :=
    h.touch rfl rfl rfl h.law (fun _ _ => .inl)
  unfold Part.makeDeferred
  split
  · exact h
  · split
    · exact h
    · dsimp only
      split
      · exact Part.copyLaws_touchRequest made _ _ _
      · exact made

theorem Part.copyLaws_removeLine {p : Part} (h : p.CopyLaws) (w : Win) (line : Nat) : (p.removeLine w line).CopyLaws :=
  h.touch rfl rfl rfl (h.law.filter (fun e he => by simp [he])) (fun _ _ => .inl)

theorem Part.copyLaws_dropTouch {p : Part} (h : p.CopyLaws) (q : Port) : (p.dropTouch q).CopyLaws := by
  refine h.touch rfl rfl rfl ?_ (fun _ _ => .inl)
  refine (h.law.filter (fun e he => by simp [he])).map fun e => ?_
  split <;> exact ⟨rfl, rfl, rfl, rfl⟩

/-- The queued entries of a window go, the one in service stays (R68). -/
theorem Part.copyLaws_removeTouches {p : Part} (h : p.CopyLaws) (w : Win) : (p.removeTouches w false).CopyLaws :=
  h.touch rfl rfl rfl (h.law.filter (fun e he => by simp [he])) (fun _ _ => .inl)

/-- The touch copier goes on with the line it has, whichever word it is at. -/
theorem Part.copyLaws_touchWord {p q : Part} (h : p.CopyLaws) {cp cp' : LineCopy}
    (copy : p.copy.touch.work.lineCopy? = some cp) (line : cp'.line = cp.line)
    (engine : q.copy = { p.copy with touch := { work := p.copy.touch.work.withCopy cp', holding := q.copy.touch.holding } })
    (records : q.records = p.records) : q.CopyLaws := by
  have copied : (p.copy.touch.work.withCopy cp').copied = p.copy.touch.work.copied := by
    cases hk : p.copy.touch.work <;> simp_all [TouchWork.withCopy, TouchWork.copied, TouchWork.lineCopy?]
  have marks : ∀ w, (p.copy.touch.work.withCopy cp').mark w = p.copy.touch.work.mark w := by
    intro w
    cases hk : p.copy.touch.work <;> simp_all [TouchWork.withCopy, TouchWork.mark, TouchWork.lineCopy?]
  refine h.touch (by rw [engine]) (by rw [engine]) records ?_ fun w l => ?_
  · rw [engine]
    exact ⟨h.law.1, h.law.2.trans copied.symm⟩
  · rw [engine, marks]
    exact .inl

end Sys2Proof.Machine
end

section
/-!
The Copy Engine's laws through the work on windows: releases, retires, job completions and boundaries.
-/

namespace Sys2Proof.Machine

/-! ## Records alone -/

theorem Part.sameCopy_flip (p : Part) (w : Win) (late : Bool) : Part.SameCopy p (p.flip w late) := by
  unfold Part.flip
  repeat' split
  · exact .refl p
  · exact .refl p
  · exact (Part.sameCopy_setRecord (r := (p.record w).flipped _ _ late) rfl).trans (Part.sameCopy_note _ _ _ _)

theorem Part.sameCopy_endPin (p : Part) (w : Win) : Part.SameCopy p (p.endPin w) := by
  unfold Part.endPin
  split
  · exact .refl p
  · exact p.sameCopy_setService w _

theorem Part.sameCopy_unpin (p : Part) (w : Win) : Part.SameCopy p (p.unpin w) := by
  unfold Part.unpin
  repeat' split
  · exact .refl p
  · exact (p.sameCopy_endPin w).trans (Part.sameCopy_flip _ _ _)
  · exact .refl p

theorem Part.sameCopy_pinBySeq (p : Part) (w : Win) : Part.SameCopy p (p.pinBySeq w) := by
  unfold Part.pinBySeq
  repeat' split
  · exact .refl p
  · exact p.sameCopy_setService w _
  · exact .refl p

theorem Part.sameCopy_retireRecord (p : Part) (w : Win) : Part.SameCopy p (p.retireRecord w) := by
  have shown := (p.sameCopy_endPin w).trans (Part.sameCopy_flip (p.endPin w) w false)
  unfold Part.retireRecord
  dsimp only
  split
  · exact shown
  · exact shown.trans (Part.sameCopy_setService _ _ _)

theorem Part.sameCopy_lineLeaves (p : Part) (w : Win) (cp : LineCopy) : Part.SameCopy p (p.lineLeaves w cp) := by
  unfold Part.lineLeaves
  split
  · exact .refl p
  · exact p.sameCopy_setService w _

theorem Part.sameCopy_boundaryPin (p : Part) (w : Win) : Part.SameCopy p (p.boundaryPin w) := by
  unfold Part.boundaryPin
  repeat' split
  · exact .refl p
  · exact .refl p
  · exact (p.sameCopy_endPin w).trans (Part.sameCopy_note _ _ _ _)
  · exact p.sameCopy_setService w _

theorem Part.sameCopy_ageStep (p : Part) (w : Win) : Part.SameCopy p (p.ageStep w) := by
  refine ⟨rfl, fun v hv => ?_⟩
  by_cases e : v = w
  · subst e
    simpa [Part.service, Part.ageStep] using hv
  · simpa [Part.service, Part.ageStep, Part.record_setRecord_ne p e] using hv

theorem Part.sameCopy_boundaryFlip (p : Part) (w : Win) : Part.SameCopy p (p.boundaryFlip w) := by
  unfold Part.boundaryFlip
  repeat' split
  · exact .refl p
  · exact (p.sameCopy_setService w _).trans (Part.sameCopy_ageStep _ _)
  · exact p.sameCopy_flip w false
  · exact p.sameCopy_ageStep w

theorem Part.sameCopy_tagReadEffect (p : Part) (q : Port) (w : Win) (sv : Service) (word : TagWord) :
    Part.SameCopy p (p.tagReadEffect q w sv word) := by
  cases word <;> unfold Part.tagReadEffect <;> dsimp only
  · split
    · exact p.sameCopy_pinBySeq w
    · exact .refl p
  · exact .of_records rfl rfl
  · exact .refl p
  · exact .refl p

theorem Part.sameCopy_tagRead (p : Part) (q : Port) (w : Win) (word : TagWord) : Part.SameCopy p (p.tagRead q w word) := by
  unfold Part.tagRead
  split
  · exact .refl p
  · exact (p.sameCopy_tagReadEffect q w _ word).trans (.of_records rfl rfl)

/-! ## Releases and abandons -/

theorem Part.copyLaws_release {p : Part} (h : p.CopyLaws) (w : Win) : (p.release w).CopyLaws := by
  unfold Part.release
  split
  case h_1 => exact h
  case h_2 sv _ =>
    have noted : Part.SameCopy p (if sv.ready.isSome then p.note sv.consumer w .dropped else p) := by
      split
      · exact p.sameCopy_note _ _ _
      · exact .refl p
    have released := noted.trans (Part.sameCopy_setRecord (w := w) (r := (p.record w).released sv) rfl)
    dsimp only
    split
    · exact h.sameCopy (released.trans (Part.sameCopy_note _ _ _ _))
    · refine Part.copyLaws_join (h.sameCopy released) ?_ _
      rw [Part.service, Part.record_setRecord_same]
      rfl

theorem Part.copyLaws_explicitRelease {p : Part} (h : p.CopyLaws) (w : Win) : (p.explicitRelease w).CopyLaws := by
  unfold Part.explicitRelease
  repeat' split
  · exact h
  · exact Part.copyLaws_release h w
  · exact Part.copyLaws_promote (h.sameCopy (p.sameCopy_setService w _)) w

theorem Part.copyLaws_abandon {p : Part} (h : p.CopyLaws) (w : Win) : (p.abandon w).CopyLaws := by
  unfold Part.abandon
  split
  case h_1 => exact h
  case h_2 sv _ =>
    have left := h.sameCopy (p.sameCopy_setService w sv.dirtyToStale)
    dsimp only
    split
    · exact left
    · exact Part.copyLaws_join left (by rw [Part.service_setService_same]; rfl) _

theorem Part.copyLaws_enable {p : Part} (h : p.CopyLaws) (w : Win) : (p.enable w).CopyLaws := by
  have setUp : Part.SameCopy p ((p.setRecord w (Record.enabled (p.liveOf w))).clearRoleNotices w (p.liveOf w).producer) :=
    (Part.sameCopy_setRecord rfl).trans (.of_records rfl rfl)
  refine Part.copyLaws_join (h.sameCopy setUp) ?_ _
  rw [Part.service_of_records (Part.clearRoleNotices_records _ _ _), Part.service, Part.record_setRecord_same]
  rfl

/-! ## Jobs that end -/

theorem ChannelWork.within_ite_idle {k : ChannelWork} {c : Prop} [Decidable c] :
    (if c then ChannelWork.idle else k).Within k := by
  split
  · exact k.within_idle
  · exact .refl k

/-- A channel's work after the window's job ended (R80, R81). -/
def ChannelWork.ended (k : ChannelWork) (w : Win) : ChannelWork := if k.served? = some w then .idle else k

/-- A channel after the window's job ended (R80, R81). -/
def Channel.ended (ch : Channel) (w : Win) : Channel :=
  match ch.work with
  | .serving w' _ _ => if w' = w then { ch with work := .idle } else ch
  | _ => ch

theorem Channel.work_ended (ch : Channel) (w : Win) : (ch.ended w).work = ch.work.ended w := by
  obtain ⟨work, masked, holding⟩ := ch
  cases work with
  | serving v job cp => by_cases hv : v = w <;> simp [Channel.ended, ChannelWork.ended, ChannelWork.served?, hv]
  | _ => simp [Channel.ended, ChannelWork.ended, ChannelWork.served?]

theorem Part.channel_endJob (p : Part) (w : Win) (c : Chan) : (p.endJob w).channel c = (p.channel c).ended w :=
  Vector.getElem_map _ c.isLt

theorem Part.work_endJob (p : Part) (w : Win) (c : Chan) :
    ((p.endJob w).channel c).work = ((p.channel c).work).ended w := by
  rw [Part.channel_endJob, Channel.work_ended]

theorem Part.noPlace_endJob (p : Part) (w : Win) : ¬ (p.endJob w).hasPlace w := by
  rintro (hw | ⟨c, hc⟩)
  · simp only [Part.waitingWindows, Part.endJob, List.mem_map, List.mem_filter, decide_eq_true_eq] at hw
    obtain ⟨e, ⟨-, ne⟩, same⟩ := hw
    exact ne same
  · rw [p.work_endJob w c, ChannelWork.ended] at hc
    split at hc
    · cases hc
    · exact absurd hc ‹_›

theorem Part.copyLaws_endJob {p : Part} (h : p.CopyLaws) (w : Win) : (p.endJob w).CopyLaws := by
  refine h.shrink (List.filter_sublist.map _) (fun c => ?_) (fun _ _ => id) h.queue (fun _ _ => id)
  rw [p.work_endJob w c]
  exact ChannelWork.within_ite_idle

/-- A window without a place leaves service (R22). -/
theorem Part.copyLaws_dropService {p : Part} (h : p.CopyLaws) {w : Win} (noPlace : ¬ p.hasPlace w) :
    (p.dropService w).CopyLaws := by
  refine h.shrink (List.Sublist.refl _) (fun c => .refl _) (fun v place hv => ?_) h.queue (fun _ _ => id)
  have ne : v ≠ w := fun e => noPlace (e ▸ (Part.hasPlace_congr rfl).mp place)
  simpa [Part.service, Part.dropService, Part.record_setRecord_ne p ne] using hv

theorem Part.sameCopy_noteBoth (p : Part) (w : Win) (k : Notice) : Part.SameCopy p (p.noteBoth w k) :=
  .of_records rfl rfl

theorem Part.sameCopy_checkStandby (p : Part) : Part.SameCopy p p.checkStandby := by
  unfold Part.checkStandby
  split
  · exact .of_records rfl rfl
  · exact .refl p

theorem Part.copyLaws_completeRetire {p : Part} (h : p.CopyLaws) (w : Win) : (p.completeRetire w).CopyLaws :=
  ((Part.copyLaws_dropService (Part.copyLaws_endJob h w) (p.noPlace_endJob w)).sameCopy
    (Part.sameCopy_noteBoth _ _ _)).sameCopy (Part.sameCopy_checkStandby _)

theorem Part.copyLaws_completeCatchUp {p : Part} (h : p.CopyLaws) (w : Win) : (p.completeCatchUp w).CopyLaws := by
  have ended := Part.copyLaws_endJob h w
  unfold Part.completeCatchUp
  dsimp only
  split
  · exact ended
  · split
    · exact Part.copyLaws_release (ended.sameCopy (Part.sameCopy_note _ _ _ _)) w
    · exact ended.sameCopy (Part.sameCopy_note _ _ _ _)

theorem Part.copyLaws_testJob {p : Part} (h : p.CopyLaws) (w : Win) : (p.testJob w).CopyLaws := by
  unfold Part.testJob
  repeat' split
  · exact Part.copyLaws_completeCatchUp h w
  · exact Part.copyLaws_completeRetire h w
  · exact h
  · exact h

/-! ## Retire -/

theorem Part.work_drainWindow (p : Part) (w : Win) (c : Chan) :
    ((p.drainWindow w).channel c).work = ((p.channel c).work).drained w := by
  simp [Part.channel, Part.drainWindow]

theorem ChannelWork.drained_within (k : ChannelWork) (w : Win) : (k.drained w).Within k := by
  unfold ChannelWork.drained
  split
  · split
    · exact ChannelWork.within_draining _ _ _
    · exact .refl _
  · split
    · exact ChannelWork.within_idle _
    · exact .refl _
  · exact .refl _

theorem ChannelWork.drained_notServed (k : ChannelWork) (w : Win) : (k.drained w).served? ≠ some w := by
  match k with
  | .idle => simp [ChannelWork.drained, ChannelWork.served?]
  | .draining v cp => simp [ChannelWork.drained, ChannelWork.served?]
  | .serving v job none => by_cases hv : v = w <;> simp [ChannelWork.drained, ChannelWork.served?, hv]
  | .serving v job (some cp) => by_cases hv : v = w <;> simp [ChannelWork.drained, ChannelWork.served?, hv]

/-- The touch copier drains the line it copies for a window, whose entry goes with it (R69, R95). -/
theorem QueueLaw.drained {l : List TouchEntry} {k : TouchWork} (h : QueueLaw l k) (w : Win) :
    QueueLaw (l.filter (fun e => decide (e.window ≠ w))) (k.drained w) := by
  obtain ⟨once, copied⟩ := h
  refine ⟨once.sublist (List.filter_sublist.map _), ?_⟩
  have windows : inServiceLines (l.filter (fun e => decide (e.window ≠ w))) =
      (inServiceLines l).filter (fun x => decide (x.1 ≠ w)) := by
    simp only [inServiceLines, List.filter_filter, List.filter_map, Function.comp_def, Bool.and_comm]
  rw [windows, copied]
  cases k with
  | copying v cp =>
    by_cases hv : v = w <;> simp [TouchWork.copied, TouchWork.drained, hv]
  | _ => rfl

theorem TouchWork.drained_mark {k : TouchWork} {w v : Win} {l : Nat} (h : lineIn ((k.drained w).mark v) l = true) :
    lineIn (k.mark v) l = true := by
  unfold TouchWork.drained at h
  split at h
  · split at h
    · simp [TouchWork.mark] at h
    · exact h
  · exact h

/-- A window that is OFF at its retire event: its copy work drains or ends, and its touch entries go (R69, R95). -/
theorem Part.copyLaws_retiredAtOnce {p : Part} (h : p.CopyLaws) (w : Win) :
    (((p.removeTouches w true).drainWindow w).dropService w).CopyLaws := by
  have drained : ((p.removeTouches w true).drainWindow w).CopyLaws := by
    refine h.shrink (List.filter_sublist.map _) (fun c => ?_) (fun _ _ => id) ?_ (fun v l => TouchWork.drained_mark)
    · rw [Part.work_drainWindow]
      exact ChannelWork.drained_within _ w
    · rw [Part.queueOk_iff_law]
      have := h.law.drained w
      simpa [Part.drainWindow, Part.removeTouches] using this
  refine Part.copyLaws_dropService drained ?_
  rintro (hw | ⟨c, hc⟩)
  · simp only [Part.waitingWindows, Part.drainWindow, List.mem_map, List.mem_filter, decide_eq_true_eq] at hw
    obtain ⟨e, ⟨-, ne⟩, same⟩ := hw
    exact ne same
  · rw [Part.work_drainWindow] at hc
    exact ChannelWork.drained_notServed _ _ hc

theorem ChannelWork.converted_within (k : ChannelWork) (w : Win) : (k.converted w).Within k := by
  unfold ChannelWork.converted
  split
  case h_2 => exact .refl _
  case h_1 v job cp =>
    split
    case isFalse => exact .refl _
    case isTrue hv =>
      subst hv
      exact ⟨fun _ => id, fun _ _ => by cases cp <;> exact id⟩

theorem Part.copyLaws_convertToRetire {p : Part} (h : p.CopyLaws) {w : Win} (inService : (p.service w).isSome = true) :
    (p.convertToRetire w).CopyLaws := by
  unfold Part.convertToRetire
  split
  case isTrue => exact Part.copyLaws_join h inService _
  case isFalse =>
    refine h.shrink ?_ (fun c => ?_) (fun _ _ => id) h.queue (fun _ _ => id)
    · have place : ∀ e : WaitEntry, (if e.window = w then { e with job := .retire } else e : WaitEntry).place = e.place := by
        intro e
        split <;> rfl
      simp only [List.map_map, Function.comp_def, place]
      exact List.Sublist.refl _
    · have work : ({ p with copy := { p.copy with
          channels := p.copy.channels.map (fun ch => { ch with work := ch.work.converted w })
          waiting := p.copy.waiting.map (fun e => if e.window = w then { e with job := .retire } else e) } } : Part).channel c =
          { p.channel c with work := (p.channel c).work.converted w } := by
        simp [Part.channel]
      rw [work]
      exact ChannelWork.converted_within _ w

theorem Part.copyLaws_retire {p : Part} (h : p.CopyLaws) (w : Win) : (p.retire w).CopyLaws := by
  have retired := h.sameCopy (p.sameCopy_retireRecord w)
  unfold Part.retire
  dsimp only
  split
  case h_1 => exact retired
  case h_2 sv hs =>
    split
    · exact (Part.copyLaws_retiredAtOnce retired w).sameCopy (Part.sameCopy_noteBoth _ _ _)
    · refine Part.copyLaws_convertToRetire (Part.copyLaws_removeTouches retired w) ?_
      show ((p.retireRecord w).service w).isSome = true
      rw [hs]
      rfl

/-! ## Boundaries -/

theorem Part.copyLaws_boundaryRelease {p : Part} (h : p.CopyLaws) (w : Win) : (p.boundaryRelease w).CopyLaws := by
  unfold Part.boundaryRelease
  repeat' split
  · exact h
  · exact h
  · exact h.sameCopy ((p.sameCopy_note _ _ _).trans (Part.sameCopy_setService _ _ _))
  · exact h
  · exact Part.copyLaws_release h w

theorem Part.copyLaws_handleBoundary {p : Part} (h : p.CopyLaws) (w : Win) : (p.handleBoundary w).CopyLaws :=
  ((Part.copyLaws_boundaryRelease h w).sameCopy (Part.sameCopy_boundaryPin _ _)).sameCopy (Part.sameCopy_boundaryFlip _ _)

theorem Part.sameCopy_endPinByApply (p : Part) (w : Win) : Part.SameCopy p (p.endPinByApply w) := by
  unfold Part.endPinByApply
  split
  · exact p.sameCopy_endPin w
  · exact .refl p

theorem Part.copyLaws_windowAtBoundary {p : Part} (h : p.CopyLaws) (applied : Bool) (w : Win) :
    (p.windowAtBoundary applied w).CopyLaws := by
  unfold Part.windowAtBoundary
  repeat' split
  · exact Part.copyLaws_enable h w
  · exact h
  · exact h
  · exact Part.copyLaws_handleBoundary (h.sameCopy (p.sameCopy_endPinByApply w)) w
  · exact Part.copyLaws_retire h w
  · exact Part.copyLaws_handleBoundary h w

/-- Work on one window after another keeps what the work on each keeps. -/
theorem foldl_keeps {P : Part → Prop} {f : Part → Win → Part} (hf : ∀ p w, P p → P (f p w)) (l : List Win) {p : Part}
    (h : P p) : P (l.foldl f p) := by
  induction l generalizing p with
  | nil => exact h
  | cons w rest ih => exact ih (hf p w h)

theorem Part.sameCopy_applyAttempt (p : Part) : Part.SameCopy p p.applyAttempt.1 :=
  .of_records p.applyAttempt_keeps.2.2.2.2.2.1 p.applyAttempt_keeps.1

theorem Part.copyLaws_deliverBoundary {p : Part} (h : p.CopyLaws) : p.deliverBoundary.CopyLaws := by
  unfold Part.deliverBoundary
  exact foldl_keeps (P := Part.CopyLaws) (fun _ w hq => Part.copyLaws_windowAtBoundary hq _ w) allWindows
    (h.sameCopy p.sameCopy_applyAttempt)

end Sys2Proof.Machine
end

section
/-!
The Copy Engine's laws through the settling of an event, and over every step.
-/

namespace Sys2Proof.Machine

/-! ## Accesses that go on -/

theorem Part.copyLaws_controlWrite {p : Part} (h : p.CopyLaws) (q : Port) (w : Win) (sv : Service) (l : Lanes) (d : Word) :
    (p.controlWrite q w sv l d).CopyLaws := by
  have noted := h.sameCopy (p.sameCopy_note q w .violation)
  unfold Part.controlWrite
  repeat' split
  exacts [noted, Part.copyLaws_explicitRelease h w, Part.copyLaws_abandon h w, noted,
    h.sameCopy (p.sameCopy_unpin w), noted]

theorem Part.sameCopy_completeAccess (p : Part) (q : Port) (d : Option Word) : Part.SameCopy p (p.completeAccess q d) :=
  .of_records rfl rfl

theorem Part.copyLaws_tagWrite {p : Part} (h : p.CopyLaws) (q : Port) (w : Win) (word : TagWord) (l : Lanes) (d : Word) :
    (p.tagWrite q w word l d).CopyLaws := by
  have completed := h.sameCopy (p.sameCopy_completeAccess q none)
  unfold Part.tagWrite
  split
  · exact h
  · dsimp only
    split
    · exact Part.copyLaws_controlWrite completed _ _ _ _ _
    · exact completed.sameCopy (Part.sameCopy_note _ _ _ _)

theorem Part.sameCopy_setAccess (p : Part) (q : Port) (a : Access) : Part.SameCopy p (p.setAccess q a) :=
  .of_records rfl rfl

theorem Part.copyLaws_proceed {p : Part} (h : p.CopyLaws) (q : Port) (a : Access) (c : AccessClass) :
    (p.proceed q a c).CopyLaws := by
  have discarded : ∀ w, ((p.completeAccess q none).note q w .violation).CopyLaws := fun w =>
    h.sameCopy ((p.sameCopy_completeAccess q none).trans (Part.sameCopy_note _ _ _ _))
  unfold Part.proceed
  repeat' split
  · exact h.sameCopy (p.sameCopy_setAccess q _)
  · exact Part.copyLaws_touchRequest (h.sameCopy (p.sameCopy_setAccess q _)) _ _ _
  · exact h.sameCopy (p.sameCopy_setAccess q _)
  · exact Part.copyLaws_tagWrite h _ _ _ _ _
  · exact h.sameCopy (p.sameCopy_tagRead q _ _)
  · exact discarded _
  · exact discarded _

theorem Part.copyLaws_reclassify {p : Part} (h : p.CopyLaws) (q : Port) : (p.reclassify q).CopyLaws := by
  unfold Part.reclassify
  repeat' split
  · exact h
  · exact Part.copyLaws_proceed h _ _ _
  · exact h
  · exact h

/-! ## Jobs taken, choices, rounds -/

theorem Part.sameCopy_grantChannel (p : Part) (c : Chan) : Part.SameCopy p (p.grantChannel c) := by
  unfold Part.grantChannel
  split
  · exact .refl p
  · exact .of_records rfl rfl

theorem Part.copyLaws_takeHead {p : Part} (h : p.CopyLaws) {c : Chan} {e : WaitEntry} {rest : List WaitEntry}
    (free : (p.channel c).work = .idle) (waiting : p.copy.waiting = e :: rest) : (p.takeHead c e rest).CopyLaws := by
  have taken := Part.copyLaws_takes h (by rw [free]; rfl) waiting
  unfold Part.takeHead
  dsimp only
  split
  · exact Part.copyLaws_testJob taken _
  · exact Part.copyLaws_selectLine taken c

/-- The channel that takes a job is IDLE and not masked (R78). -/
theorem Part.freeChannel?_spec {p : Part} {c : Chan} (h : p.freeChannel? = some c) :
    (p.channel c).work = .idle ∧ (p.channel c).masked = false := by
  have := List.find?_some h
  simpa using this

theorem Part.copyLaws_takeJobs (fuel : Nat) {p : Part} (h : p.CopyLaws) : (Part.takeJobs fuel p).CopyLaws := by
  induction fuel generalizing p with
  | zero => exact h
  | succ n ih =>
    unfold Part.takeJobs
    split
    case h_2 => exact h
    case h_1 c e rest free waiting =>
      have taken := Part.copyLaws_takeHead h (Part.freeChannel?_spec free).1 waiting
      refine ih ?_
      unfold Part.chooseAtOnce
      split
      · exact taken
      · exact taken.sameCopy (Part.sameCopy_grantChannel _ c)

theorem Part.copyLaws_round {p : Part} (h : p.CopyLaws) : p.round.CopyLaws :=
  Part.copyLaws_reclassify (Part.copyLaws_reclassify (Part.copyLaws_makeDeferred (Part.copyLaws_makeDeferred
    (Part.copyLaws_touchTake (Part.copyLaws_takeJobs takeFuel (Part.copyLaws_stepChannels h))) .a) .b) .a) .b

theorem Part.sameCopy_grantTouch (p : Part) : Part.SameCopy p p.grantTouch := by
  unfold Part.grantTouch
  split
  · exact .refl p
  · exact .of_records rfl rfl

theorem Part.sameCopy_grantEffect (p : Part) (q : Port) (a : Access) (m : MemClass) :
    Part.SameCopy p (p.grantEffect q a m) := by
  unfold Part.grantEffect
  repeat' split
  · exact p.sameCopy_note _ _ _
  · exact p.sameCopy_setService _ _
  · exact .refl p
  · exact .refl p

theorem Part.sameCopy_grantPort (p : Part) (q : Port) (a : Access) (m : MemClass) : Part.SameCopy p (p.grantPort q a m) :=
  ((p.sameCopy_grantEffect q a m).trans (Part.sameCopy_setAccess _ q { a with phase := .granted m })).trans
    (.of_records rfl rfl)

theorem Part.sameCopy_choose (fuel : Nat) (p : Part) : Part.SameCopy p (p.choose fuel).1 := by
  induction fuel generalizing p with
  | zero => exact .refl p
  | succ n ih =>
    unfold Part.choose
    repeat' split
    · exact p.sameCopy_grantTouch
    · exact p.sameCopy_grantChannel _
    · exact p.sameCopy_grantPort _ _ _
    · exact (p.sameCopy_setAccess _ _).trans (ih _)
    · exact .refl p
    · exact p.sameCopy_grantChannel _
    · exact .refl p

theorem Part.copyLaws_goOn (l : List (Port × Access × AccessClass)) {p : Part} (h : p.CopyLaws) : (p.goOn l).CopyLaws := by
  induction l generalizing p with
  | nil => exact h
  | cons x rest ih => exact ih (Part.copyLaws_proceed h x.1 x.2.1 x.2.2)

theorem Part.copyLaws_offerIn (fuel : Nat) {p : Part} (h : p.CopyLaws) : (Part.offerIn fuel p).CopyLaws := by
  induction fuel generalizing p with
  | zero => exact h
  | succ n ih =>
    have chosen := h.sameCopy (p.sameCopy_choose 3)
    unfold Part.offerIn
    dsimp only
    split_ifs
    · exact chosen
    · exact ih (Part.copyLaws_round (Part.copyLaws_round (Part.copyLaws_goOn _ chosen)))
    · exact h

theorem Part.copyLaws_offer {p : Part} (h : p.CopyLaws) : p.offer.CopyLaws := by
  unfold Part.offer
  exact Part.copyLaws_offerIn 3 h

theorem Part.copyLaws_settle {p : Part} (h : p.CopyLaws) : p.settle.CopyLaws := by
  unfold Part.settle
  exact Part.copyLaws_offer (Part.copyLaws_round (Part.copyLaws_round h))

/-! ## Completions -/

/-- A channel goes on with the line it has, whichever word it is at. -/
theorem ChannelWork.withCopy_within {k : ChannelWork} {cp cp' : LineCopy} (copy : k.lineCopy? = some cp)
    (line : cp'.line = cp.line) : (k.withCopy cp').Within k := by
  match k, copy with
  | .serving w job (some cp), rfl =>
    exact ⟨fun _ => id, fun v l => by simp [ChannelWork.withCopy, ChannelWork.mark, line]⟩
  | .draining w cp, rfl => exact ⟨fun _ => id, fun _ _ => id⟩

theorem Part.copyLaws_channelLineEnd {p : Part} (h : p.CopyLaws) (c : Chan) : (p.channelLineEnd c).CopyLaws := by
  unfold Part.channelLineEnd
  split
  case h_1 w job cp serves =>
    have ended : (p.setChannelWork c (.serving w job none)).CopyLaws :=
      Part.copyLaws_setChannelWork h (serves ▸ ⟨fun _ => id, fun v l hm => by simp [ChannelWork.mark] at hm⟩)
    exact Part.copyLaws_testJob (Part.copyLaws_removeLine (ended.sameCopy (Part.sameCopy_lineLeaves _ _ _)) _ _) _
  case h_2 => exact Part.copyLaws_setChannelWork h (ChannelWork.within_idle _)
  case h_3 => exact h

theorem Part.copyLaws_channelWordDone {p : Part} (h : p.CopyLaws) (c : Chan) (write : Bool) (word : Word) :
    (p.channelWordDone c write word).CopyLaws := by
  unfold Part.channelWordDone
  dsimp only
  split
  case h_1 => exact h
  case h_2 cp copy =>
    split_ifs
    · exact Part.copyLaws_channelLineEnd h c
    · exact Part.copyLaws_setChannelWork h (ChannelWork.withCopy_within copy rfl)
    · have goesOn : (p.setChannelWork c ((p.channel c).work.withCopy { cp with half := .write })).CopyLaws :=
        Part.copyLaws_setChannelWork h (ChannelWork.withCopy_within copy rfl)
      refine goesOn.shrink (List.Sublist.refl _) (fun d => ?_) (fun _ _ => id) goesOn.queue (fun _ _ => id)
      by_cases hd : d = c
      · subst hd
        rw [p.work_setChannelWork, if_pos rfl, Part.channel_setChannel_same]
        exact .refl _
      · rw [p.work_setChannelWork, if_neg hd, Part.channel_setChannel_ne p hd]
        exact .refl _

theorem Part.copyLaws_touchLineEnd {p : Part} (h : p.CopyLaws) : p.touchLineEnd.CopyLaws := by
  unfold Part.touchLineEnd
  split
  case h_1 w cp _ =>
    have left : Part.SameCopy (p.setTouchWork .idle) ((p.setTouchWork .idle).lineLeaves w cp) :=
      Part.sameCopy_lineLeaves _ _ _
    have served : ((p.setTouchWork .idle).setQueue (p.copy.queue.filter (fun e => !e.inService))).CopyLaws :=
      h.touch rfl rfl rfl h.law.served (fun w l hm => by simp [Part.setQueue, Part.setTouchWork, TouchWork.mark] at hm)
    have ended := served.sameCopy (q := ((p.setTouchWork .idle).lineLeaves w cp).setQueue
      (((p.setTouchWork .idle).lineLeaves w cp).copy.queue.filter (fun e => !e.inService)))
      ⟨by simp only [Part.setQueue, left.1]; rfl, left.2⟩
    exact Part.copyLaws_testJob (Part.copyLaws_removeLine ended _ _) _
  case h_2 drains =>
    exact h.touch rfl rfl rfl (h.law.rest (by rw [drains]; rfl) rfl)
      (fun w l hm => by simp [Part.setTouchWork, TouchWork.mark] at hm)
  case h_3 => exact h

theorem Part.copyLaws_touchWordDone {p : Part} (h : p.CopyLaws) (write : Bool) (word : Word) :
    (p.touchWordDone write word).CopyLaws := by
  unfold Part.touchWordDone
  dsimp only
  split
  case h_1 => exact h
  case h_2 cp copy =>
    split_ifs
    · exact Part.copyLaws_touchLineEnd h
    · exact Part.copyLaws_touchWord h (cp' := { cp with word := cp.word + 1, half := .read }) copy rfl rfl rfl
    · exact Part.copyLaws_touchWord h (cp' := { cp with half := .write }) copy rfl rfl rfl

theorem Part.copyLaws_deliver {p : Part} (h : p.CopyLaws) (m : MemAccess) (word : Word) : (p.deliver m word).CopyLaws := by
  unfold Part.deliver
  split
  · exact h.sameCopy (p.sameCopy_completeAccess _ _)
  · exact Part.copyLaws_touchWordDone h _ _
  · exact Part.copyLaws_channelWordDone h _ _ _

/-- A change of holding words and masks alone. -/
theorem Part.CopyLaws.sameWork {p q : Part} (h : p.CopyLaws) (work : ∀ c, (q.channel c).work = (p.channel c).work)
    (touch : q.copy.touch.work = p.copy.touch.work) (waiting : q.copy.waiting = p.copy.waiting)
    (queue : q.copy.queue = p.copy.queue) (records : q.records = p.records) : q.CopyLaws :=
  h.shrink (by rw [waiting]) (fun c => work c ▸ .refl _) (fun w _ hw => by rwa [Part.service_of_records records])
    (Part.queueOk_congr queue touch h.queue) (fun w l => by rw [touch]; exact id)

theorem Part.work_setChannel_holding (p : Part) (c d : Chan) (word : Word) :
    ((p.setChannel c { p.channel c with holding := word }).channel d).work = (p.channel d).work := by
  by_cases hd : d = c
  · subst hd
    rw [Part.channel_setChannel_same]
  · rw [Part.channel_setChannel_ne p hd]

theorem Part.copyLaws_deliverLast {p : Part} (h : p.CopyLaws) (m : MemAccess) (word : Word) :
    (p.deliverLast m word).CopyLaws := by
  unfold Part.deliverLast
  split
  case h_1 => exact h.sameCopy (p.sameCopy_completeAccess _ _)
  case h_2 =>
    split
    · exact h
    · exact h.sameWork (fun _ => rfl) rfl rfl rfl rfl
  case h_3 =>
    split
    · exact h
    · exact h.sameWork (fun d => p.work_setChannel_holding _ d _) rfl rfl rfl rfl

theorem Part.copyLaws_setMasks {p : Part} (h : p.CopyLaws) (m : Byte) : (p.setMasks m).CopyLaws :=
  h.sameWork (fun c => by simp [Part.channel, Part.setMasks]) rfl rfl rfl rfl

theorem Part.copyLaws_timeout {p : Part} (h : p.CopyLaws) (q : Port) : (p.timeout q).CopyLaws := by
  have ended : ∀ d w, ((p.completeAccess q d).note q w .stallTimeout).CopyLaws := fun d w =>
    h.sameCopy ((p.sameCopy_completeAccess q d).trans (Part.sameCopy_note _ _ _ _))
  unfold Part.timeout
  split
  · dsimp only
    split
    · exact Part.copyLaws_dropTouch (ended _ _) q
    · exact ended _ _
  · exact h

/-! ## Entering and leaving RUN -/

theorem Part.copyLaws_enterRun {p : Part} (h : p.CopyLaws) : p.enterRun.CopyLaws := by
  have enabled : ∀ (q : Part) (w : Win), q.CopyLaws → (if (q.liveOf w).enable then q.enable w else q).CopyLaws := by
    intro q w hq
    split
    · exact Part.copyLaws_enable hq w
    · exact hq
  unfold Part.enterRun
  exact Part.copyLaws_settle (foldl_keeps (P := Part.CopyLaws) enabled allWindows (h.sameCopy (.of_records rfl rfl)))

theorem Part.copyLaws_retireLive {p : Part} (h : p.CopyLaws) (w : Win) : (p.retireLive w).CopyLaws := by
  unfold Part.retireLive
  repeat' split
  · exact h
  · exact Part.copyLaws_retire h w
  · exact h

theorem Part.copyLaws_enterStopping {p : Part} (h : p.CopyLaws) : p.enterStopping.CopyLaws := by
  have entered : ({ p with opState := .stopping } : Part).CopyLaws := h.sameCopy (.of_records rfl rfl)
  have retired := foldl_keeps (P := Part.CopyLaws) (f := Part.retireLive)
    (fun _ w hq => Part.copyLaws_retireLive hq w) allWindows entered
  rw [Part.enterStopping_eq]
  exact Part.copyLaws_settle (retired.sameCopy (Part.sameCopy_checkStandby _))

theorem Part.copyLaws_reset : Part.reset.CopyLaws :=
  Part.copyLaws_iff.mpr ⟨by decide, by decide, by decide⟩

/-- The shared operations keep the Copy Engine's laws. -/
theorem Part.kept_copyLaws : Part.Kept Part.CopyLaws where
  reset := Part.copyLaws_reset
  ports _ _ h := h.sameCopy (.of_records rfl rfl)
  timer _ _ _ h := h.sameCopy (.of_records rfl rfl)
  softReset _ _ h := h.sameCopy (.of_records rfl rfl)
  staging _ _ h := h.sameCopy (.of_records rfl rfl)
  arbiter _ _ _ h := h.sameCopy (.of_records rfl rfl)
  masks _ m h := Part.copyLaws_setMasks h m
  noticeMasks _ _ _ _ _ h := h.sameCopy (.of_records rfl rfl)
  polled _ _ _ _ h := h.sameCopy (.of_records rfl rfl)
  globals _ _ _ h := h.sameCopy (.of_records rfl rfl)
  noteGlobal _ _ h := h.sameCopy (.of_records rfl rfl)
  round _ h := Part.copyLaws_round h
  offer _ h := Part.copyLaws_offer h
  deliver _ m word h := Part.copyLaws_deliver h m word
  deliverLast _ m word h := Part.copyLaws_deliverLast h m word
  timeout _ q h := Part.copyLaws_timeout h q
  proceed _ q a c h := Part.copyLaws_proceed h q a c
  deliverBoundary _ h := Part.copyLaws_deliverBoundary h
  enterRun _ _ h := Part.copyLaws_enterRun h
  enterStopping _ _ h := Part.copyLaws_enterStopping h

/-- Settles O59: every shared operation keeps the laws. -/
theorem copyEngineLawsStay : Obligations.CopyEngineLawsStay := by
  have kept : KeptByStep (fun s => s.part.CopyLaws) := Part.kept_copyLaws.keptByStep
  intro s t h run
  exact Part.copyLaws_iff.mp (kept s t (Part.copyLaws_iff.mpr h) run)

/-- Settles O60: each invariant is evaluated on the reset values; the Copy Engine's are its laws at reset. -/
theorem invariantsHoldAtReset : Obligations.InvariantsHoldAtReset := by
  obtain ⟨waiting, queue, marks⟩ := Part.copyLaws_iff.mp Part.copyLaws_reset
  obtain ⟨windows, timer⟩ := Part.kept_stateAgrees.reset
  exact ⟨Memory.wf_reset, by decide, windows, timer, Part.kept_ordersOk.reset, waiting, queue, marks⟩

end Sys2Proof.Machine
end

section
/-!
Accesses that arrive and are granted, discarded or held (02_access_resolution.md R28 to R42): the address each class is
granted, its class from where the address lies, and the statements assembled from the two.
-/

namespace Sys2Proof.Machine

/-! ## The granted address -/

/-- The word of a bank at the access's offset in the window (R30). -/
def Service.wordOf (sv : Service) (k : Bank) (a : Addr) : Addr :=
  sv.geometry.base k + BitVec.ofNat 20 (sv.geometry.offset a)

theorem Part.grantAddr_consumerRead {p : Part} {w : Win} {sv : Service} (hs : p.service w = some sv) (a : Access) :
    p.grantAddr a (.consumerRead w) = sv.wordOf sv.front a.addr := by
  simp only [Part.grantAddr, hs, Service.servingBank, bankWord_offset]
  rfl

theorem Part.grantAddr_producerRead {p : Part} {w : Win} {sv : Service} (hs : p.service w = some sv) (a : Access) :
    p.grantAddr a (.producerRead w) =
      sv.wordOf (if lineIn sv.backStale (sv.geometry.offset a.addr / 16) then sv.latest else sv.back) a.addr := by
  simp only [Part.grantAddr, hs, Service.servingBank, bankWord_offset]
  rfl

theorem Part.grantAddr_producerWrite {p : Part} {w : Win} {sv : Service} (hs : p.service w = some sv) (a : Access)
    (masked : Bool) : p.grantAddr a (.producerWrite w masked) = sv.wordOf sv.back a.addr := by
  simp only [Part.grantAddr, hs, Service.servingBank, bankWord_offset]
  rfl

/-- A read's grant is the port's own access at the granted address. -/
theorem Part.portAccess_own {p : Part} {q : Port} {a : Access} {m : MemClass} (plain : ∀ w, m ≠ .producerWrite w true) :
    p.portAccess q a m = .ofPort q a.write (p.grantAddr a m) a.lanes a.data p.arbiter.accessTime := by
  cases m with
  | producerWrite w masked =>
    cases masked with
    | true => exact absurd rfl (plain w)
    | false => rfl
  | _ => rfl

/-- A producer write's grant under the write mask (R41, R42, R143). -/
theorem Part.portAccess_producerWrite {p : Part} {q : Port} {w : Win} {sv : Service} {a : Access}
    (hs : p.service w = some sv) (write : a.write = true) :
    p.portAccess q a (.producerWrite w (decide ((p.liveOf w).writeMask ≠ 0xFFFF#16))) =
      if (p.liveOf w).writeMask = 0xFFFF#16 then
        .ofPort q true (sv.wordOf sv.back a.addr) a.lanes a.data p.arbiter.accessTime
      else
        { requestor := .port q, write := false, addr := sv.wordOf sv.back a.addr, lanes := ⟨true, true⟩, data := a.data
          kind := .pairRead (p.liveOf w).writeMask, time := p.arbiter.accessTime } := by
  by_cases full : (p.liveOf w).writeMask = 0xFFFF#16
  · rw [if_pos full, Part.portAccess_own (by simp [full]), Part.grantAddr_producerWrite hs, write]
  · rw [if_neg full, decide_eq_true full, ← Part.grantAddr_producerWrite hs a true]
    rfl

theorem Part.grantEffect_producerWrite {p : Part} {q : Port} {w : Win} {sv : Service} {a : Access}
    (hs : p.service w = some sv) (masked : Bool) :
    p.grantEffect q a (.producerWrite w masked) =
      p.setService w { sv with dirty := addLine sv.dirty (sv.geometry.lineOf a.addr) } := by
  simp only [Part.grantEffect, hs]

/-! ## Granted at once -/

/-- An arrival that is granted at once in a quiet state. -/
theorem exec_arrival_granted {q : Port} {addr : Addr} {rd wr : Bool} {lanes : Lanes} {data : Word} {s : State}
    {m : MemClass} (strobe : (rd || wr) = true) (quiet : s.quietFor q) (free : s.part.memoryFree = true)
    (cls : s.part.classify q addr wr = .memory m) :
    exec (.accessArrival q addr rd wr lanes data) s =
      .next (s.onPart
        { (s.part.grantEffect q (arrivingAccess addr wr lanes data) m).withPort q
            (.holding { arrivingAccess addr wr lanes data with phase := .granted m }) with
          arbiter := s.part.arbiter.grantedTo q (s.part.portAccess q (arrivingAccess addr wr lanes data) m) }) := by
  obtain ⟨present, rest, -⟩ := quiet
  rw [exec_accessArrival_taken strobe present,
    Part.arrive_granted_eq (a := arrivingAccess addr wr lanes data) rest free (State.canPresent_soft present) cls]
  rfl

/-- Settles O4. -/
theorem passThroughGranted : Obligations.PassThroughGranted := by
  unfold Obligations.PassThroughGranted
  intro q addr rd wr lanes data s strobe quiet free outside
  exact exec_arrival_granted strobe quiet free (Part.classify_passThrough outside)

/-- Settles O5: the class is a consumer's or a producer's read, granted at the word of the bank that serves it. -/
theorem windowReadsGranted : Obligations.WindowReadsGranted := by
  unfold Obligations.WindowReadsGranted
  intro q addr lanes data s w sv quiet free inside noTag live word granted
  have inService : s.part.service w = some sv := inside.2.1
  refine ⟨fun consumer => ?consumer, fun ⟨producer, notPending⟩ => ?producer⟩
  case consumer =>
    have cls : s.part.classify q addr false = .memory (.consumerRead w) := by
      rw [Part.classify_logical inside, classifyLogical_consumer live consumer (Part.noTag_none noTag)]
      rfl
    rw [exec_arrival_granted rfl quiet free cls, Part.portAccess_own (by simp), Part.grantAddr_consumerRead inService]
    rfl
  case producer =>
    have cls : s.part.classify q addr false = .memory (.producerRead w) := by
      rw [Part.classify_logical inside, classifyLogical_producer live producer notPending (Part.noTag_none noTag)]
      rfl
    dsimp only
    rw [exec_arrival_granted rfl quiet free cls, Part.portAccess_own (by simp), Part.grantAddr_producerRead inService]
    rfl

/-- Settles O6: the class is a producer write; its line joins the dirty set at the grant. -/
theorem producerWriteToBack : Obligations.ProducerWriteToBack := by
  unfold Obligations.ProducerWriteToBack
  intro q addr rd lanes data s w sv quiet free inside noTag live producer notPending fresh mask word time m
  have inService : s.part.service w = some sv := inside.2.1
  have cls : s.part.classify q addr true = .memory (.producerWrite w (decide (mask ≠ 0xFFFF#16))) := by
    have notStale : lineIn sv.backStale (sv.geometry.lineOf addr) = false := fresh
    rw [Part.classify_logical inside, classifyLogical_producer live producer notPending (Part.noTag_none noTag)]
    simp only [if_true, notStale, Bool.false_eq_true, if_false, mask]
  rw [exec_arrival_granted (Bool.or_true rd) quiet free cls, Part.portAccess_producerWrite inService rfl,
    Part.grantEffect_producerWrite inService]
  rfl

/-- Settles O7: the class is a bank intrusion read, whose grant notes VIOLATION. -/
theorem intrusionReadGranted : Obligations.IntrusionReadGranted := by
  unfold Obligations.IntrusionReadGranted
  intro q addr lanes data s w sv quiet free run inService inBank notLogical others
  have cls : s.part.classify q addr false = .memory (.intrusionRead w) :=
    Part.classify_bank run inService inBank notLogical others
  exact exec_arrival_granted rfl quiet free cls

/-! ## Discarded and held -/

/-- Settles O8: both classes are discarded by the arrival. -/
theorem discardedWrites : Obligations.DiscardedWrites := by
  unfold Obligations.DiscardedWrites
  intro q addr rd lanes data s w sv ⟨present, rest, idle⟩ where_
  have cls : s.part.classify q addr true = .consumerWrite w ∨ s.part.classify q addr true = .intrusionWrite w := by
    rcases where_ with ⟨inside, noTag, live, consumer⟩ | ⟨run, inService, inBank, notLogical, others⟩
    · left
      rw [Part.classify_logical inside, classifyLogical_consumer live consumer (Part.noTag_none noTag)]
      rfl
    · right
      exact Part.classify_bank run inService inBank notLogical others
  rw [exec_accessArrival_taken (Bool.or_true rd) present,
    Part.arrive_discarded (a := arrivingAccess addr true lanes data) rest idle (State.canPresent_soft present) cls]
  rfl

/-- An arrival held in a stall that is no touch wait, in a quiet state. -/
theorem exec_arrival_held {q : Port} {addr : Addr} {rd wr : Bool} {lanes : Lanes} {data : Word} {s : State} {st : Stall}
    (strobe : (rd || wr) = true) (quiet : s.quietFor q) (cls : s.part.classify q addr wr = .stall st)
    (touch : ∀ w l, st ≠ .touchWait w l) (holds : s.part.stallEnded q st = false) :
    exec (.accessArrival q addr rd wr lanes data) s =
      .next (s.onPart (s.part.withPort q
        (.holding ⟨addr, wr, lanes, if wr then data else 0#16, .stalled st 0⟩))) := by
  obtain ⟨present, rest, idle⟩ := quiet
  rw [exec_accessArrival_taken strobe present, Part.arrive_held (a := arrivingAccess addr wr lanes data) rest idle
    (State.canPresent_soft present) cls touch holds]
  rfl

/-- Settles O9: the class is the stall whose condition holds, or one that needs the busy memory port. -/
theorem heldByTheWindowOrTheBusyPort : Obligations.HeldByTheWindowOrTheBusyPort := by
  unfold Obligations.HeldByTheWindowOrTheBusyPort
  intro q addr rd wr lanes data s strobe quiet held
  refine ⟨fun w sv inside => ⟨fun retiring => ?retiring, fun ⟨live, producer, pending⟩ => ?pending⟩,
    fun m ⟨busy, cls⟩ => ?busy⟩
  case retiring =>
    have cls : s.part.classify q addr wr = .stall (.retiring w) := by
      rw [Part.classify_logical inside, classifyLogical_retiring retiring]
    exact exec_arrival_held strobe quiet cls (by simp) (by simp [Part.stallEnded, inside.2.1, retiring])
  case pending =>
    have cls : s.part.classify q addr wr = .stall (.releasePending w) := by
      rw [Part.classify_logical inside, classifyLogical_releasePending live producer pending]
    exact exec_arrival_held strobe quiet cls (by simp) (by simp [Part.stallEnded, inside.2.1, pending])
  case busy =>
    obtain ⟨present, rest, -⟩ := quiet
    rw [exec_accessArrival_taken strobe present, Part.arrive_waits (a := arrivingAccess addr wr lanes data) rest busy
      (State.canPresent_soft present) cls]
    rfl

end Sys2Proof.Machine
end

section
/-!
Rest, condition by condition (R78, R79, R87, R89, R29): what it asks of each channel and of each held access, what it
looks at, and how an event settles where one channel alone has a step or a job to take.
-/

namespace Sys2Proof.Machine

theorem Part.atRest_iff {p : Part} : p.atRest = true ↔ p.copyAtRest = true ∧ ∀ q, p.stallHolds q = true := by
  simp only [Part.atRest, Bool.and_eq_true]
  exact ⟨fun ⟨⟨copy, a⟩, b⟩ => ⟨copy, fun q => by cases q; exacts [a, b]⟩, fun ⟨copy, stalls⟩ => ⟨⟨copy, stalls .a⟩, stalls .b⟩⟩

/-- Every stall that stands on the port has its condition. -/
theorem Part.stallHolds_iff {p : Part} {q : Port} : p.stallHolds q = true ↔
    ∀ a st n, p.accessOf q = some a → a.phase = .stalled st n → p.stallEnded q st = false := by
  unfold Part.stallHolds
  cases p.accessOf q with
  | none => simp
  | some a =>
    cases hp : a.phase with
    | stalled st n =>
      simp only [hp, Bool.not_eq_true']
      refine ⟨fun h b st' n' hb hph => ?_, fun h => h a st n rfl hp⟩
      cases hb
      rw [hp] at hph
      cases hph
      exact h
    | _ =>
      simp only [hp, true_iff]
      intro b st n hb hph
      cases hb
      rw [hp] at hph
      cases hph

/-- A channel that serves with no line in copy is not masked and finds every stale line in copy. -/
theorem Part.channelHolds_iff {p : Part} {c : Chan} : p.channelHolds c = true ↔
    ∀ w job, (p.channel c).work = .serving w job none → (p.channel c).masked = false ∧
      ∀ sv, p.service w = some sv → ∀ l, lineIn (sv.stale.get (sv.jobTarget job)) l = true →
        lineIn (p.inCopyLines w) l = true := by
  have within : ∀ s t : LineSet, s &&& ~~~t = 0#64 ↔ ∀ l, lineIn s l = true → lineIn t l = true := by
    intro s t
    have less : s &&& ~~~t = lessLines s t := rfl
    rw [less, show (0#64) = noLines from rfl, eq_noLines_iff]
    refine forall_congr' fun l => ?_
    rw [lineIn_lessLines]
    cases lineIn s l <;> cases lineIn t l <;> simp
  unfold Part.channelHolds
  match hk : (p.channel c).work with
  | .idle => simp
  | .draining v cp => simp
  | .serving v job (some cp) => simp
  | .serving v job none =>
    cases hs : p.service v with
    | none => simp [hs]
    | some sv => simp [hs, within]

/-- What rest looks at in a window's service state. -/
def Service.restView (sv : Service) : Bool × Bool × Bank × PerBank LineSet :=
  (sv.retiring, sv.releasePending, sv.back, sv.stale)

theorem Part.stallEnded_congr {p q : Part} (queue : q.copy.queue = p.copy.queue)
    (view : ∀ w, (q.service w).map Service.restView = (p.service w).map Service.restView) (r : Port) (st : Stall) :
    q.stallEnded r st = p.stallEnded r st := by
  have serves : ∀ w l, q.touchServes r w l = p.touchServes r w l := fun w l => by simp only [Part.touchServes, queue]
  have views : ∀ w, (q.service w = none ∧ p.service w = none) ∨ ∃ sv sv', q.service w = some sv ∧
      p.service w = some sv' ∧ sv.retiring = sv'.retiring ∧ sv.releasePending = sv'.releasePending ∧
      sv.backStale = sv'.backStale := by
    intro w
    have same := view w
    cases hq : q.service w <;> cases hp : p.service w <;> simp_all [Service.restView, Service.backStale]
  cases st with
  | retiring w =>
    rcases views w with ⟨hq, hp⟩ | ⟨sv, sv', hq, hp, retiring, -, -⟩
    · simp only [Part.stallEnded, hq, hp]
    · simp only [Part.stallEnded, hq, hp, retiring]
  | releasePending w =>
    rcases views w with ⟨hq, hp⟩ | ⟨sv, sv', hq, hp, -, pending, -⟩
    · simp only [Part.stallEnded, hq, hp]
    · simp only [Part.stallEnded, hq, hp, pending]
  | touchWait w l =>
    rcases views w with ⟨hq, hp⟩ | ⟨sv, sv', hq, hp, retiring, -, stale⟩
    · simp only [Part.stallEnded, hq, hp]
    · simp only [Part.stallEnded, hq, hp, retiring, stale, serves]

theorem Part.inCopyLines_congr {p q : Part} (copy : q.copy = p.copy) (w : Win) : q.inCopyLines w = p.inCopyLines w := by
  simp only [Part.inCopyLines, Part.channelMarks, Part.channel, copy]

/-- The Copy Engine's rest looks at the Copy Engine and at what its channels hold. -/
theorem Part.copyAtRest_congr {p q : Part} (copy : q.copy = p.copy) (holds : ∀ c, q.channelHolds c = true)
    (h : p.copyAtRest = true) : q.copyAtRest = true := by
  obtain ⟨-, jobs, touch, deferred⟩ := Part.copyAtRest_iff.mp h
  refine Part.copyAtRest_iff.mpr ⟨holds, ?_, ?_, fun r => ?_⟩
  · have channel : q.channel = p.channel := funext fun c => by simp only [Part.channel, copy]
    have free : q.freeChannel? = p.freeChannel? := by unfold Part.freeChannel?; rw [channel]
    rw [free, copy]
    exact jobs
  · simp only [Part.inCopyLines_congr copy, copy]
    exact touch
  · have := deferred r
    simp only [Part.deferredHolds, Part.touchDraining, copy] at this ⊢
    exact this

/-- Rest looks at the ports, at the Copy Engine and at each window's view, and at nothing else. -/
theorem Part.atRest_congr {p q : Part} (ports : q.ports = p.ports) (copy : q.copy = p.copy)
    (view : ∀ w, (q.service w).map Service.restView = (p.service w).map Service.restView) (h : p.atRest = true) :
    q.atRest = true := by
  obtain ⟨rest, stalls⟩ := Part.atRest_iff.mp h
  have holds := (Part.copyAtRest_iff.mp rest).1
  refine Part.atRest_iff.mpr ⟨Part.copyAtRest_congr copy (fun c => Part.channelHolds_iff.mpr fun w job serves => ?_) rest,
    fun r => Part.stallHolds_iff.mpr fun a st n ha hp => ?_⟩
  · have channel : q.channel c = p.channel c := by simp only [Part.channel, copy]
    rw [channel] at serves
    obtain ⟨unmasked, stale⟩ := Part.channelHolds_iff.mp (holds c) w job serves
    refine ⟨channel ▸ unmasked, fun sv hs l hl => ?_⟩
    rw [Part.inCopyLines_congr copy]
    have same := view w
    rw [hs, Option.map_some, eq_comm, Option.map_eq_some_iff] at same
    obtain ⟨sv', hs', same⟩ := same
    simp only [Service.restView, Prod.mk.injEq] at same
    obtain ⟨-, -, back, stales⟩ := same
    refine stale sv' hs' l ?_
    have target : sv'.jobTarget job = sv.jobTarget job := by cases job <;> simp [Service.jobTarget, back]
    rw [stales, target]
    exact hl
  · have acc : q.accessOf r = p.accessOf r := by simp only [Part.accessOf, ports]
    rw [Part.stallEnded_congr (by rw [copy]) view]
    exact Part.stallHolds_iff.mp (stalls r) a st n (acc ▸ ha) hp

/-- The same for a change of one window's record. -/
theorem Part.atRest_setRecord {p : Part} {w : Win} {sv sv' : Service} {r : Record} (hs : p.service w = some sv)
    (hr : r.service = some sv') (view : sv'.restView = sv.restView) (h : p.atRest = true) :
    (p.setRecord w r).atRest = true := by
  refine Part.atRest_congr (p := p) rfl rfl (fun v => ?_) h
  by_cases e : v = w
  · subst e
    have now : (p.setRecord v r).service v = some sv' := by rw [Part.service, Part.record_setRecord_same, hr]
    rw [now, hs, Option.map_some, Option.map_some, view]
  · rw [Part.service, Part.record_setRecord_ne p e]
    rfl

theorem Part.atRest_setService {p : Part} {w : Win} {sv sv' : Service} (hs : p.service w = some sv)
    (view : sv'.restView = sv.restView) (h : p.atRest = true) : (p.setService w sv').atRest = true :=
  Part.atRest_setRecord hs rfl view h

theorem Part.noIdleRequest_congr {p q : Part} (ports : q.ports = p.ports) (copy : q.copy = p.copy)
    (access : q.arbiter.access = p.arbiter.access) (h : p.noIdleRequest = true) : q.noIdleRequest = true := by
  have same : q.noIdleRequest = p.noIdleRequest := by
    simp only [Part.noIdleRequest, Part.portContended, Part.accessOf, Part.channel, ports, copy, access]
  rw [same]
  exact h

/-! ## One channel's step -/

/-- The channels that hold take no step; the one that does not takes its own (R79). -/
theorem Part.stepChannels_only {p : Part} {c : Chan} (others : ∀ d, d ≠ c → p.channelHolds d = true)
    (after : ∀ d, (p.channelStep c).channelHolds d = true) : p.stepChannels = p.channelStep c := by
  have before : ∀ d, d ≠ c → p.channelStep d = p := fun d hd => Part.channelStep_rest (others d hd)
  have settled : ∀ d, (p.channelStep c).channelStep d = p.channelStep c := fun d => Part.channelStep_rest (after d)
  unfold Part.stepChannels
  match c with
  | 0 => rw [before 3 (by decide), before 2 (by decide), before 1 (by decide)]
  | 1 => rw [before 3 (by decide), before 2 (by decide), settled]
  | 2 => rw [before 3 (by decide), settled, settled]
  | 3 => rw [settled, settled, settled]

/-- A round whose channels' steps bring the part to rest is those steps. -/
theorem Part.round_of_steps {p q : Part} (steps : p.stepChannels = q) (rest : q.atRest = true) : p.round = q := by
  obtain ⟨copy, stalls⟩ := Part.atRest_iff.mp rest
  simp only [Part.round, steps, Part.takeJobs_rest copy, Part.touchTake_rest copy, Part.makeDeferred_rest copy,
    Part.reclassify_rest (stalls _)]

/-- The line copy that a selection begins (R75). -/
theorem Part.selectLine_lowest {p : Part} {c : Chan} {w : Win} {job : Job} {sv : Service} {line : Nat}
    (serves : (p.channel c).work = .serving w job none) (hs : p.service w = some sv)
    (lowest : lowestLine? (lessLines (sv.stale.get (sv.jobTarget job)) (p.inCopyLines w)) = some line) :
    p.selectLine c =
      p.setChannelWork c (.serving w job (some (sv.startLine (sv.jobSource job) (sv.jobTarget job) line))) := by
  simp only [Part.selectLine, serves, hs, lowest]

theorem Part.channelStep_lowest {p : Part} {c : Chan} {w : Win} {job : Job} {sv : Service} {line : Nat}
    (serves : (p.channel c).work = .serving w job none) (unmasked : (p.channel c).masked = false)
    (hs : p.service w = some sv)
    (lowest : lowestLine? (lessLines (sv.stale.get (sv.jobTarget job)) (p.inCopyLines w)) = some line) :
    p.channelStep c =
      p.setChannelWork c (.serving w job (some (sv.startLine (sv.jobSource job) (sv.jobTarget job) line))) := by
  rw [← Part.selectLine_lowest serves hs lowest]
  simp only [Part.channelStep, serves, unmasked, Bool.false_eq_true, if_false]

/-! ## One channel's job -/

/-- A set of lines with a lowest line is not empty. -/
theorem ne_noLines_of_lowest {s : LineSet} {l : Nat} (h : lowestLine? s = some l) : s ≠ noLines := by
  rintro rfl
  have := lineIn_lowest h
  rw [lineIn_noLines] at this
  cases this

theorem ne_noLines_of_lessLines {s t : LineSet} {l : Nat} (h : lowestLine? (lessLines s t) = some l) : s ≠ noLines := by
  rintro rfl
  have := lineIn_lowest h
  rw [lineIn_lessLines, lineIn_noLines] at this
  cases this

/-- The job a channel has taken is the window's job. -/
theorem Part.jobOf_serving {p : Part} {c : Chan} {w : Win} {job : Job} {copy : Option LineCopy}
    (serves : (p.channel c).work = .serving w job copy)
    (alone : ∀ d, d ≠ c → (p.channel d).work.served? ≠ some w) : p.jobOf w = some job := by
  rw [Part.jobOf, Part.servedBy_only serves alone]

/-- A job whose target has a stale line is not complete (R80, R81). -/
theorem Part.jobComplete_stale {p : Part} {w : Win} {sv : Service} {job : Job} (hs : p.service w = some sv)
    (hj : p.jobOf w = some job) (stale : sv.stale.get (sv.jobTarget job) ≠ noLines) : p.jobComplete w = false := by
  simp only [Part.jobComplete, hs, hj, decide_eq_false stale, Bool.false_and]

/-- A channel that takes the head of the list begins the lowest free line of its target (R78, R79). -/
theorem Part.takeHead_begins {p : Part} {c : Chan} {e : WaitEntry} {rest : List WaitEntry} {sv : Service} {line : Nat}
    (hs : p.service e.window = some sv) (alone : ∀ d, d ≠ c → (p.channel d).work.served? ≠ some e.window)
    (lowest : lowestLine? (lessLines (sv.stale.get (sv.jobTarget e.job))
      (((p.setWaiting rest).setChannelWork c (.serving e.window e.job none)).inCopyLines e.window)) = some line) :
    p.takeHead c e rest = (p.setWaiting rest).setChannelWork c
      (.serving e.window e.job (some (sv.startLine (sv.jobSource e.job) (sv.jobTarget e.job) line))) := by
  generalize hq : (p.setWaiting rest).setChannelWork c (.serving e.window e.job none) = q at lowest
  have work : ∀ d, (q.channel d).work = if d = c then .serving e.window e.job none else (p.channel d).work := by
    intro d
    rw [← hq]
    exact (p.setWaiting rest).work_setChannelWork c d _
  have serves : (q.channel c).work = .serving e.window e.job none := by rw [work, if_pos rfl]
  have others : ∀ d, d ≠ c → (q.channel d).work.served? ≠ some e.window := by
    intro d hd
    rw [work, if_neg hd]
    exact alone d hd
  have hsq : q.service e.window = some sv := by rw [← hq]; exact hs
  have open' := Part.jobComplete_stale hsq (Part.jobOf_serving serves others) (ne_noLines_of_lessLines lowest)
  have twice : ∀ k, q.setChannelWork c k = (p.setWaiting rest).setChannelWork c k := by
    intro k
    rw [← hq]
    simp only [Part.setChannelWork, Part.channel_setChannel_same]
    simp only [Part.setChannel, Vector.set_set]
  unfold Part.takeHead
  simp only [hq, open', Bool.false_eq_true, if_false]
  rw [Part.selectLine_lowest serves hsq lowest, twice]

end Sys2Proof.Machine
end

section
/-!
Reads of the tag words (05_tag_block.md R98 to R103): the arrival of a tag read, what the Tag Block answers and changes,
and the statements assembled from the two.
-/

namespace Sys2Proof.Machine

/-! ## Records written twice or as they were -/

theorem Part.setRecord_setRecord (p : Part) (w : Win) (r r' : Record) :
    (p.setRecord w r).setRecord w r' = p.setRecord w r' := by
  simp only [Part.setRecord, Vector.set_set]

theorem Part.setRecord_self (p : Part) (w : Win) : p.setRecord w (p.record w) = p := by
  have same : p.records.set w.val (p.record w) w.isLt = p.records := Vector.set_getElem_self w.isLt
  simp only [Part.setRecord, same]

/-- A window's service state put back as it was changes nothing. -/
theorem Part.setService_self {p : Part} {w : Win} {sv : Service} (hs : p.service w = some sv) :
    p.setService w sv = p := by
  have same : { p.record w with service := some sv } = p.record w := by
    rw [← hs]
    rfl
  rw [Part.setService, same, Part.setRecord_self]

theorem Part.setService_setRecord (p : Part) (w : Win) (r : Record) (sv : Service) :
    (p.setRecord w r).setService w sv = p.setRecord w { r with service := some sv } := by
  rw [Part.setService, Part.record_setRecord_same, Part.setRecord_setRecord]

theorem Part.setRecord_setService (p : Part) (w : Win) (sv : Service) (r : Record) :
    (p.setService w sv).setRecord w r = p.setRecord w r := by
  rw [Part.setService, Part.setRecord_setRecord]

theorem Part.record_setService_same (p : Part) (w : Win) (sv : Service) :
    (p.setService w sv).record w = { p.record w with service := some sv } := by
  rw [Part.setService, Part.record_setRecord_same]

/-! ## A tag read -/

/-- An arriving read that is classified as a tag word is answered by the Tag Block in the same event (R98). -/
theorem Part.arrive_tagRead {p : Part} {q : Port} {a : Access} {w : Win} {word : TagWord}
    (soft : p.softReset ≠ .draining) (read : a.write = false) (cls : p.classify q a.addr a.write = .tag w word) :
    p.arrive q a = ((p.takeAccess q a).tagRead q w word).settle := by
  unfold Part.arrive
  rw [if_neg soft, Part.classify_takeAccess, cls]
  simp only [Part.proceed, read, Bool.false_eq_true, if_false]

theorem Part.pinBySeq_eq {p : Part} {w : Win} {sv : Service} (hs : p.service w = some sv) :
    p.pinBySeq w =
      p.setService w { sv with pin := if 0 < (p.liveOf w).pinLimit ∧ sv.pin = none then some 0 else sv.pin } := by
  unfold Part.pinBySeq
  rw [hs]
  by_cases pins : 0 < (p.liveOf w).pinLimit ∧ sv.pin = none
  · simp [pins]
  · rw [if_neg pins]
    refine Eq.trans ?_ (Part.setService_self hs).symm
    have : (decide (0 < (p.liveOf w).pinLimit) && sv.pin.isNone) = false := by
      rw [Bool.and_eq_false_iff]
      by_cases limit : 0 < (p.liveOf w).pinLimit
      · right
        have : sv.pin ≠ none := by simpa [limit] using pins
        simpa [Option.isSome_iff_ne_none] using this
      · left
        simpa using limit
    simp only [this, Bool.false_eq_true, if_false]

/-- What a tag read changes does not depend on the port's own interface. -/
theorem Part.tagReadEffect_takeAccess {p : Part} {w : Win} {sv : Service} (hs : p.service w = some sv) (q : Port)
    (a : Access) (word : TagWord) :
    (p.takeAccess q a).tagReadEffect q w sv word = (p.tagReadEffect q w sv word).takeAccess q a := by
  have taken : (p.takeAccess q a).service w = some sv := hs
  unfold Part.tagReadEffect
  cases word with
  | seq =>
    dsimp only
    rw [Part.pinBySeq_eq hs, Part.pinBySeq_eq taken]
    split <;> rfl
  | status => rfl
  | fill => rfl
  | control => rfl

/-- What a tag read changes is nothing that rest looks at. -/
theorem Part.tagReadEffect_rest {p : Part} {w : Win} {sv : Service} (hs : p.service w = some sv) (q : Port)
    (word : TagWord) (rest : p.atRest = true) : (p.tagReadEffect q w sv word).atRest = true := by
  unfold Part.tagReadEffect
  cases word with
  | seq =>
    dsimp only
    rw [Part.pinBySeq_eq hs]
    split
    · exact Part.atRest_setService hs rfl rest
    · exact rest
  | status => exact rest
  | fill => exact rest
  | control => exact rest

theorem Part.tagReadEffect_idle {p : Part} (q : Port) (w : Win) (sv : Service) (word : TagWord)
    (idle : p.noIdleRequest = true) : (p.tagReadEffect q w sv word).noIdleRequest = true := by
  refine Part.noIdleRequest_congr (p := p) ?_ ((p.sameCopy_tagReadEffect q w sv word).1) ?_ idle <;>
    unfold Part.tagReadEffect Part.pinBySeq <;> repeat' split
  all_goals rfl

/-- An arriving tag read of an open tag block is answered with the word's value (R98). -/
theorem Part.arrive_tagRead_answered {p : Part} {q : Port} {a : Access} {w : Win} {sv : Service} {word : TagWord}
    (rest : p.atRest = true) (idle : p.noIdleRequest = true) (soft : p.softReset ≠ .draining) (read : a.write = false)
    (hs : p.service w = some sv) (cls : p.classify q a.addr a.write = .tag w word) :
    p.arrive q a = (p.tagReadEffect q w sv word).withPort q (.answered (some (p.tagValue q w sv word))) := by
  have taken : (p.takeAccess q a).service w = some sv := hs
  have value : (p.takeAccess q a).tagValue q w sv word = p.tagValue q w sv word := rfl
  rw [Part.arrive_tagRead soft read cls, Part.tagRead, taken]
  dsimp only
  rw [Part.tagReadEffect_takeAccess hs, Part.completeAccess_takeAccess, value]
  exact Part.settle_idle
    (Part.atRest_withPort (Part.tagReadEffect_rest hs q word rest) q (by simp [PortIf.answered]))
    (Part.noIdleRequest_withPort (Part.tagReadEffect_idle q w sv word idle) (by simp [PortIf.answered]))

/-- The same for a port that reads at the tag word's address in a quiet state. -/
theorem State.present_tagRead {s : State} {q : Port} {w : Win} {sv : Service} {word : TagWord} {a : Access}
    (quiet : s.quietFor q) (isOpen : s.part.tagOpen q w sv word) (addr : a.addr = s.part.tagAddr w word)
    (read : a.write = false) :
    s.present q a = s.onPart
      ((s.part.tagReadEffect q w sv word).withPort q (.answered (some (s.part.tagValue q w sv word)))) := by
  obtain ⟨present, rest, idle⟩ := quiet
  obtain ⟨⟨-, inService, -⟩, -⟩ := Part.tagAddr_at isOpen
  have cls : s.part.classify q a.addr a.write = .tag w word := addr ▸ Part.classify_tag isOpen
  rw [State.present_taken a present,
    Part.arrive_tagRead_answered rest idle (State.canPresent_soft present) read inService cls]
  rfl

/-- The row ACCESS_ARRIVAL as a read at a tag word's address. -/
theorem exec_arrival_tagRead {s : State} {q : Port} {w : Win} {sv : Service} {word : TagWord} {lanes : Lanes}
    {data : Word} (quiet : s.quietFor q) (isOpen : s.part.tagOpen q w sv word) :
    exec (.accessArrival q (s.part.tagAddr w word) true false lanes data) s = .next (s.onPart
      ((s.part.tagReadEffect q w sv word).withPort q (.answered (some (s.part.tagValue q w sv word))))) := by
  rw [exec_accessArrival_strobe rfl, State.present_tagRead quiet isOpen rfl rfl]

theorem lineCount_le (s : LineSet) : lineCount s ≤ 64 := by
  have := List.countP_le_length (p := fun l => lineIn s l) (l := List.range 64)
  simpa [lineCount] using this

theorem fillWord_eq {n : Nat} (h : n ≤ 64) : fillWord n = BitVec.ofNat 16 n := by
  apply BitVec.eq_of_toNat_eq
  simp only [fillWord, BitVec.toNat_setWidth, BitVec.toNat_ofNat]
  omega

/-- Two bytes side by side are 256 times the upper one more than the lower one (R169). -/
theorem word16_toNat (h l : Byte) : (word16 h l).toNat = 256 * h.toNat + l.toNat := by
  have hl := l.isLt
  unfold word16
  rw [BitVec.toNat_append, ← Nat.shiftLeft_add_eq_or_of_lt hl, Nat.shiftLeft_eq]
  omega

theorem controlWord_eq {age dropped : Nat} (_ha : age ≤ 255) (hd : dropped ≤ 255) :
    controlWord age dropped = BitVec.ofNat 16 (256 * age + dropped) := by
  apply BitVec.eq_of_toNat_eq
  rw [controlWord, word16_toNat]
  simp only [byteOf, BitVec.toNat_ofNat]
  omega

/-- Settles O11: each word's value and effect, by the role. -/
theorem seqFillAndControlReads : Obligations.SeqFillAndControlReads := by
  unfold Obligations.SeqFillAndControlReads
  intro q w lanes data s sv quiet r pinned answered
  refine ⟨fun isOpen => ⟨fun consumer => ?seqConsumer, fun producer => ?seqProducer⟩, fun ⟨isOpen, fill⟩ => ?fill,
    fun ⟨isOpen, age, dropped⟩ => ?control⟩
  case seqConsumer =>
    obtain ⟨⟨-, inService, -⟩, -⟩ := Part.tagAddr_at isOpen
    simp only [exec, execSeqRead, State.presentTagRead]
    rw [State.present_tagRead quiet isOpen rfl rfl]
    simp only [Part.tagReadEffect, Part.tagValue, consumer, ne_eq, not_false_eq_true, decide_true, if_true,
      Part.pinBySeq_eq inService]
    rfl
  case seqProducer =>
    simp only [exec, execSeqRead, State.presentTagRead]
    rw [State.present_tagRead quiet isOpen rfl rfl]
    simp only [Part.tagReadEffect, Part.tagValue, producer, ne_eq, not_true_eq_false, decide_false, if_false,
      Bool.false_eq_true]
    rfl
  case fill =>
    rw [exec_arrival_tagRead quiet isOpen]
    simp only [Part.tagReadEffect, Part.tagValue, decide_eq_true_eq]
    rw [fillWord_eq]
    split
    · exact fill
    · exact lineCount_le _
  case control =>
    rw [exec_arrival_tagRead quiet isOpen]
    simp only [Part.tagReadEffect, Part.tagValue]
    rw [controlWord_eq age dropped]

/-- The bits of the STATUS word (R100, R176). -/
theorem statusWord_getLsbD (n : NoticeSet) (consumer : Bool) (sv : Service) (i : Nat) :
    (statusWord n consumer sv).getLsbD i = (n.getLsbD i ||
      (if consumer then
        (decide (i = 8) && sv.pin.isSome) || (decide (i = 9) && sv.initial) || (decide (i = 10) && sv.late) ||
          (decide (i = 11) && sv.deferred)
       else (decide (i = 12) && decide (sv.backStale ≠ noLines)) || (decide (i = 13) && sv.carried))) := by
  have bit : ∀ (b : Bool) (k : Nat), k < 16 → (bitAt b k).getLsbD i = (decide (i = k) && b) := by
    intro b k hk
    cases b
    · simp [bitAt]
    · simp only [bitAt, if_true, BitVec.getLsbD_twoPow, Bool.and_true]
      by_cases e : i = k
      · subst e
        simp [hk]
      · simp [e, Ne.symm e]
  have low : (n.setWidth 16).getLsbD i = n.getLsbD i := by
    rw [BitVec.getLsbD_setWidth]
    by_cases hi : i < 16
    · simp [hi]
    · simp [BitVec.getLsbD_of_ge n i (by omega)]
  cases consumer
  · simp only [statusWord, BitVec.getLsbD_or, low, Bool.false_eq_true, if_false, bit _ 12 (by decide),
      bit _ 13 (by decide)]
  · simp only [statusWord, BitVec.getLsbD_or, low, if_true, bit _ 8 (by decide), bit _ 9 (by decide),
      bit _ 10 (by decide), bit _ 11 (by decide)]

/-- Settles O12: the value is the STATUS word, whose bits are read off; the effect clears the port's notices. -/
theorem statusRead : Obligations.StatusRead := by
  unfold Obligations.StatusRead
  intro q w lanes s sv quiet isOpen n consumer
  refine ⟨s.part.tagValue q w sv .status, ?_, ?_⟩
  · simp only [exec, execStatusRead, State.presentTagRead]
    rw [State.present_tagRead quiet isOpen rfl rfl]
    rfl
  · have bits := statusWord_getLsbD n.window[w] consumer sv
    have high : ∀ i, 8 ≤ i → (n.window[w]).getLsbD i = false := fun i hi => BitVec.getLsbD_of_ge _ i hi
    simp only [Part.tagValue]
    refine ⟨fun i hi => ?low, ?_⟩
    case low =>
      rw [bits i]
      have : ∀ k, 8 ≤ k → decide (i = k) = false := fun k hk => decide_eq_false (by omega)
      simp [this]
    · refine ⟨?_, ?_, ?_, ?_, ?_, ?_, ?_, ?_⟩
      all_goals rw [bits, high _ (by decide)]
      all_goals
        cases consumer <;> by_cases stale : sv.backStale = 0#64
      all_goals simp [noLines, stale]

end Sys2Proof.Machine
end

section
/-!
Writes to the CONTROL word (05_tag_block.md R105): the command a port's write gives, refused commands, and the end of a
pin (03_release_flip_and_pinning.md R65).
-/

namespace Sys2Proof.Machine

/-! ## The arrival of a CONTROL write -/

/-- A write to CONTROL of an open tag block is answered, its command carried out, and the event settles (R98, R105). -/
theorem State.present_control {s : State} {q : Port} {w : Win} {sv : Service} {lanes : Lanes} {data : Word}
    (quiet : s.quietFor q) (isOpen : s.part.tagOpen q w sv .control) :
    s.presentTagWrite q w .control lanes data =
      s.onPart ((s.part.withPort q (.answered none)).controlWrite q w sv lanes data).settle := by
  obtain ⟨present, -, -⟩ := quiet
  obtain ⟨⟨-, inService, -⟩, -⟩ := Part.tagAddr_at isOpen
  have cls : s.part.classify q (s.part.tagAddr w .control) true = .tag w .control := Part.classify_tag isOpen
  generalize ha : arrivingAccess (s.part.tagAddr w .control) true lanes data = a
  have write : a.write = true := by rw [← ha]; rfl
  have lanesA : a.lanes = lanes := by rw [← ha]; rfl
  have dataA : a.data = data := by rw [← ha]; rfl
  have clsA : s.part.classify q a.addr a.write = .tag w .control := by rw [← ha]; exact cls
  have taken : (s.part.takeAccess q a).service w = some sv := inService
  rw [State.presentTagWrite, ha, State.present_taken a present,
    Part.arrive_tagWrite (State.canPresent_soft present) write clsA, Part.tagWrite, taken]
  dsimp only
  rw [Part.completeAccess_takeAccess, lanesA, dataA]
  rfl

theorem Part.tagGeometry_of_service {p : Part} {w : Win} {sv : Service} (hs : p.service w = some sv) :
    p.tagGeometry w = sv.geometry := by
  rw [Part.tagGeometry, hs]

theorem Port.other_ne (q : Port) : q.other ≠ q := by cases q <;> decide

theorem Port.other_other (q : Port) : q.other.other = q := by cases q <;> rfl

/-- The rows of the producer's commands. -/
theorem exec_explicitRelease {s : State} {q : Port} {w : Win} {sv : Service} (quiet : s.quietFor q)
    (isOpen : s.part.tagOpen q w sv .control) (producer : sv.geometry.producer = q) :
    exec (.explicitRelease w) s = .next (s.onPart ((s.part.withPort q (.answered none)).explicitRelease w).settle) := by
  have hs : s.part.service w = some sv := isOpen.2.1
  simp only [exec, execExplicitRelease, Part.tagGeometry_of_service hs, producer]
  rw [State.present_control quiet isOpen]
  simp only [Part.controlWrite, producer, ne_eq, not_true_eq_false, if_false, if_true]

theorem exec_abandon {s : State} {q : Port} {w : Win} {sv : Service} (quiet : s.quietFor q)
    (isOpen : s.part.tagOpen q w sv .control) (producer : sv.geometry.producer = q) :
    exec (.abandon w) s = .next (s.onPart ((s.part.withPort q (.answered none)).abandon w).settle) := by
  have hs : s.part.service w = some sv := isOpen.2.1
  simp only [exec, execAbandon, Part.tagGeometry_of_service hs, producer]
  rw [State.present_control quiet isOpen]
  have otherData : ¬ (0x0002#16 : Word) = 0x0001#16 := by decide
  simp only [Part.controlWrite, producer, ne_eq, not_true_eq_false, if_false, if_true, otherData]

/-- The row of the consumer's command. -/
theorem exec_unpin {s : State} {q : Port} {w : Win} {sv : Service} (quiet : s.quietFor q)
    (isOpen : s.part.tagOpen q w sv .control) (consumer : sv.geometry.producer.other = q) :
    exec (.unpin w) s = .next (s.onPart ((s.part.withPort q (.answered none)).unpin w).settle) := by
  have hs : s.part.service w = some sv := isOpen.2.1
  have notProducer : sv.geometry.producer ≠ q := consumer ▸ (Port.other_ne _).symm
  simp only [exec, execUnpin, Part.tagGeometry_of_service hs, consumer]
  rw [State.present_control quiet isOpen]
  simp only [Part.controlWrite, notProducer, ne_eq, not_true_eq_false, if_false, if_true]

/-! ## Refused commands -/

/-- A CONTROL write that is no command of its role is discarded with VIOLATION (R105). -/
theorem Part.controlWrite_refused {q : Port} {w : Win} {sv : Service} {lanes : Lanes} {data : Word}
    (refused : lanes ≠ ⟨true, true⟩ ∨ (sv.geometry.producer = q ∧ data ≠ 0x0001#16 ∧ data ≠ 0x0002#16) ∨
      (sv.geometry.producer ≠ q ∧ data ≠ 0x0003#16)) (p : Part) :
    p.controlWrite q w sv lanes data = p.note q w .violation := by
  unfold Part.controlWrite
  rcases refused with half | ⟨producer, noRelease, noAbandon⟩ | ⟨consumer, noUnpin⟩
  · exact if_pos half
  · rw [if_pos producer, if_neg noRelease, if_neg noAbandon, ite_self]
  · rw [if_neg consumer, if_neg noUnpin, ite_self]

/-- Settles O14: the command is refused with VIOLATION, which begins no other work. -/
theorem controlWriteRefused : Obligations.ControlWriteRefused := by
  unfold Obligations.ControlWriteRefused
  intro q w lanes data s sv quiet isOpen refused n
  have ⟨_, rest, idle⟩ := quiet
  simp only [exec, execControlWriteRefused]
  rw [State.present_control quiet isOpen, Part.controlWrite_refused refused, Part.settle_answered_note rest idle,
    Part.note_violation]
  rfl

/-! ## The end of a pin -/

/-- The answered part of a quiet state has no work to begin. -/
theorem State.answered_quiet {s : State} {q : Port} (quiet : s.quietFor q) (d : Option Word) :
    (s.part.withPort q (.answered d)).atRest = true ∧ (s.part.withPort q (.answered d)).noIdleRequest = true :=
  ⟨Part.atRest_withPort quiet.2.1 q (by simp [PortIf.answered]),
    Part.noIdleRequest_withPort quiet.2.2 (by simp [PortIf.answered])⟩

theorem Part.atRest_note {p : Part} (h : p.atRest = true) (q : Port) (w : Win) (k : Notice) :
    (p.note q w k).atRest = true :=
  Part.atRest_congr (p := p) rfl rfl (fun _ => rfl) h

/-- A change of a window's record that rest does not look at, and a notice, begin no work. -/
theorem Part.settle_record {p q : Part} {w : Win} {sv sv' : Service} {r : Record} (rest : p.atRest = true)
    (idle : p.noIdleRequest = true) (hs : p.service w = some sv) (hr : r.service = some sv')
    (view : sv'.restView = sv.restView) (same : q = p.setRecord w r ∨ ∃ x v k, q = (p.setRecord w r).note x v k) :
    q.settle = q := by
  have rest' := Part.atRest_setRecord hs hr view rest
  have idle' : (p.setRecord w r).noIdleRequest = true := Part.noIdleRequest_congr rfl rfl rfl idle
  rcases same with rfl | ⟨x, v, k, rfl⟩
  · exact Part.settle_idle rest' idle'
  · exact Part.settle_idle (Part.atRest_note rest' x v k) (Part.noIdleRequest_congr (p := p.setRecord w r) rfl rfl rfl idle')

theorem Part.endPin_eq {p : Part} {w : Win} {sv : Service} (hs : p.service w = some sv) :
    p.endPin w = p.setService w { sv with pin := none } := by
  rw [Part.endPin, hs]

theorem Part.flip_none {p : Part} {w : Win} {sv : Service} (hs : p.service w = some sv) (ready : sv.ready = none)
    (late : Bool) : p.flip w late = p := by
  rw [Part.flip, hs]
  dsimp only
  rw [ready]

theorem Part.flip_some {p : Part} {w : Win} {sv : Service} {image : ReadyImage} (hs : p.service w = some sv)
    (ready : sv.ready = some image) (late : Bool) :
    p.flip w late = (p.setRecord w ((p.record w).flipped sv image late)).note sv.consumer w .imageReady := by
  rw [Part.flip, hs]
  dsimp only
  rw [ready]

/-- Settles O15: ignored without a pin; else the pin ends, and a ready image flips late. -/
theorem unpin : Obligations.Unpin := by
  unfold Obligations.Unpin
  intro q w s sv consumer quiet isOpen p
  have hs : s.part.service w = some sv := isOpen.2.1
  obtain ⟨rest, idle⟩ := State.answered_quiet quiet none
  change p.atRest = true at rest
  change p.noIdleRequest = true at idle
  have hp : p.service w = some sv := hs
  have ends := exec_unpin quiet isOpen consumer
  change exec (.unpin w) s = .next (s.onPart (p.unpin w).settle) at ends
  have pinned : sv.pin ≠ none → p.unpin w = (p.setService w { sv with pin := none }).flip w true := by
    intro pin
    have isSome : sv.pin.isSome = true := Option.isSome_iff_ne_none.mpr pin
    rw [Part.unpin, hp]
    dsimp only
    rw [if_pos isSome, Part.endPin_eq hp]
  have now : (p.setService w { sv with pin := none }).service w = some { sv with pin := none } := by
    rw [Part.service, Part.record_setService_same]
  refine ⟨fun pin => ?_, fun ⟨pin, ready⟩ => ?_, fun image ⟨pin, ready⟩ => ?_⟩
  · have ignored : p.unpin w = p := by simp [Part.unpin, hp, pin]
    rw [ends, ignored, Part.settle_idle rest idle]
  · have settled : (p.setService w { sv with pin := none }).settle = p.setService w { sv with pin := none } :=
      Part.settle_record rest idle hp (r := { p.record w with service := some { sv with pin := none } }) rfl rfl (.inl rfl)
    rw [ends, pinned pin, Part.flip_none now ready, settled]
  · intro shown
    rw [ends, pinned pin, Part.flip_some now ready, Part.setRecord_setService, Part.record_setService_same,
      show Service.consumer { sv with pin := none } = q from consumer,
      Part.settle_record rest idle hp (sv' := shown) (r := _) rfl rfl (.inr ⟨_, _, _, rfl⟩)]
    rfl

end Sys2Proof.Machine
end

section
/-!
How an event settles where one channel begins a line: the selection of a channel that served without one (R79), and the
taking of the head of the waiting list (R78).
-/

namespace Sys2Proof.Machine

/-! ## Rest without the channels -/

/-- The queued touch entries, the deferred touch requests and the stalls have nothing to begin (R87, R89, R29). -/
structure Part.QueuesHold (p : Part) : Prop where
  touch : p.copy.touch.work ≠ .idle ∨
    ∀ e ∈ p.copy.queue, e.inService = false → lineIn (p.inCopyLines e.window) e.line = true
  deferred : ∀ q, p.deferredHolds q = true
  stalls : ∀ q, p.stallHolds q = true

theorem Part.atRest_iff_queues {p : Part} : p.atRest = true ↔
    (∀ c, p.channelHolds c = true) ∧ (p.freeChannel? = none ∨ p.copy.waiting = []) ∧ p.QueuesHold := by
  rw [Part.atRest_iff, Part.copyAtRest_iff]
  exact ⟨fun ⟨⟨channels, jobs, touch, deferred⟩, stalls⟩ => ⟨channels, jobs, touch, deferred, stalls⟩,
    fun ⟨channels, jobs, touch, deferred, stalls⟩ => ⟨⟨channels, jobs, touch, deferred⟩, stalls⟩⟩

theorem ChannelWork.mark_of_noLine {k : ChannelWork} (h : k.lineCopy? = none) (w : Win) : k.mark w = noLines := by
  match k with
  | .idle => rfl
  | .draining v cp => cases h
  | .serving v job none => rfl
  | .serving v job (some cp) => cases h

theorem ChannelWork.served?_of_idle {k : ChannelWork} (h : k = .idle) : k.served? = none := by rw [h]; rfl

/-- A channel that begins a line takes none from copy. -/
theorem Part.inCopyLines_begins {p : Part} {c : Chan} (empty : (p.channel c).work.lineCopy? = none) (k : ChannelWork)
    {v : Win} {l : Nat} (h : lineIn (p.inCopyLines v) l = true) :
    lineIn ((p.setChannelWork c k).inCopyLines v) l = true := by
  rw [Part.lineIn_inCopyLines] at h ⊢
  refine h.imp (fun ⟨d, hd⟩ => ⟨d, ?_⟩) id
  rw [p.work_setChannelWork]
  split
  case isFalse => exact hd
  case isTrue e =>
    rw [e, ChannelWork.mark_of_noLine empty, lineIn_noLines] at hd
    cases hd

theorem Part.inCopyLines_setWaiting (p : Part) (l : List WaitEntry) (w : Win) :
    (p.setWaiting l).inCopyLines w = p.inCopyLines w := rfl

/-- A channel that begins leaves the queues, the deferred requests and the stalls with nothing to begin. -/
theorem Part.QueuesHold.begins {p : Part} (h : p.QueuesHold) {c : Chan}
    (empty : (p.channel c).work.lineCopy? = none) (k : ChannelWork) (l : List WaitEntry) :
    ((p.setWaiting l).setChannelWork c k).QueuesHold where
  touch := h.touch.imp id fun queued e he hs =>
    Part.inCopyLines_begins (p := p.setWaiting l) empty k (queued e he hs)
  deferred := h.deferred
  stalls q := by
    have stalls := Part.stallHolds_iff.mp (h.stalls q)
    refine Part.stallHolds_iff.mpr fun a st n ha hp => ?_
    rw [Part.stallEnded_congr (p := p) (q := (p.setWaiting l).setChannelWork c k) rfl (fun _ => rfl)]
    exact stalls a st n ha hp

theorem Part.masked_setChannelWork (p : Part) (c d : Chan) (k : ChannelWork) :
    ((p.setChannelWork c k).channel d).masked = (p.channel d).masked := by
  by_cases h : d = c
  · subst h
    simp [Part.setChannelWork]
  · rw [Part.setChannelWork, Part.channel_setChannel_ne p h]

theorem Part.channelHolds_begins {p : Part} {c : Chan} (empty : (p.channel c).work.lineCopy? = none) (k : ChannelWork)
    (l : List WaitEntry) {d : Chan} (other : d ≠ c) (h : p.channelHolds d = true) :
    ((p.setWaiting l).setChannelWork c k).channelHolds d = true := by
  refine Part.channelHolds_iff.mpr fun w job serves => ?_
  rw [(p.setWaiting l).work_setChannelWork, if_neg other] at serves
  rw [(p.setWaiting l).masked_setChannelWork]
  obtain ⟨unmasked, within⟩ := Part.channelHolds_iff.mp h w job serves
  exact ⟨unmasked, fun sv hs i hi => Part.inCopyLines_begins (p := p.setWaiting l) empty k (within sv hs i hi)⟩

theorem Part.channelHolds_of_line {p : Part} {c : Chan} {w : Win} {job : Job} {cp : LineCopy}
    (work : (p.channel c).work = .serving w job (some cp)) : p.channelHolds c = true :=
  Part.channelHolds_iff.mpr fun v k serves => by
    rw [work] at serves
    cases serves

theorem Part.channelHolds_of_idle {p : Part} {c : Chan} (work : (p.channel c).work = .idle) : p.channelHolds c = true :=
  Part.channelHolds_iff.mpr fun v k serves => by
    rw [work] at serves
    cases serves

/-- The part in which a channel has begun a line is at rest where the other channels are and no job is left to take. -/
theorem Part.atRest_begins {p : Part} {c : Chan} {w : Win} {job : Job} {cp : LineCopy} {l : List WaitEntry}
    (others : ∀ d, d ≠ c → p.channelHolds d = true) (empty : (p.channel c).work.lineCopy? = none)
    (jobs : (p.setChannelWork c (.serving w job (some cp))).freeChannel? = none ∨ l = []) (queues : p.QueuesHold) :
    ((p.setWaiting l).setChannelWork c (.serving w job (some cp))).atRest = true := by
  refine Part.atRest_iff_queues.mpr ⟨fun d => ?_, jobs, queues.begins empty _ l⟩
  by_cases h : d = c
  · subst h
    exact Part.channelHolds_of_line ((p.setWaiting l).work_setChannelWork d d _ |>.trans (if_pos rfl))
  · exact Part.channelHolds_begins empty _ l h (others d h)

/-! ## The grant to a channel that has begun -/

theorem Part.requests_of_idle {p : Part} (idle : p.noIdleRequest = true) (free : p.arbiter.access = none) :
    p.touchRequests = false ∧ (∀ c, p.channelRequests c = false) ∧ ∀ q, p.portRequests q = false := by
  have : p.memoryFree = true := by
    simp only [Part.noIdleRequest, free, Option.isSome_none, Bool.false_or] at idle
    simp [Part.memoryFree, free, idle]
  obtain ⟨-, touch, channels, a, b⟩ := Part.memoryFree_iff.mp this
  exact ⟨touch, channels, fun q => by cases q; exacts [a, b]⟩

/-- The rotation reaches every channel. -/
theorem rotationFrom_find : ∀ n c : Chan, (rotationFrom n).find? (fun d => decide (d = c)) = some c := by decide

theorem Part.rotated_only {p : Part} {c : Chan} (own : p.channelRequests c = true)
    (others : ∀ d, d ≠ c → p.channelRequests d = false) : p.rotated? = some c := by
  have requests : ∀ d, p.channelRequests d = decide (d = c) := fun d => by
    by_cases h : d = c
    · subst h
      simp [own]
    · simp [others d h, h]
  unfold Part.rotated?
  simp only [requests]
  exact rotationFrom_find p.arbiter.nextChannel c

/-- The memory port is free and one channel alone requests it: it is granted (R139, R140). -/
theorem Part.offer_onlyChannel {p : Part} {c : Chan} (free : p.arbiter.access = none) (soft : p.softReset ≠ .draining)
    (touch : p.touchRequests = false) (own : p.channelRequests c = true)
    (others : ∀ d, d ≠ c → p.channelRequests d = false) (ports : ∀ q, p.portRequests q = false) :
    p.offer = p.grantChannel c := by
  have chosen : p.choose 3 = (p.grantChannel c, []) := by
    unfold Part.choose
    simp only [touch, Bool.false_eq_true, if_false, Part.rotated_only own others]
    by_cases turn : p.arbiter.runLimit ≤ p.arbiter.portRun
    · simp only [turn, decide_true]
    · simp only [turn, decide_false, Part.selectedPort?, ports]
  rw [Part.offer_eq, if_pos ⟨free, soft⟩, chosen]
  rfl

theorem Part.channelRequests_setChannelWork (p : Part) (c d : Chan) (k : ChannelWork) :
    (p.setChannelWork c k).channelRequests d = if d = c then k.lineCopy?.isSome else p.channelRequests d := by
  rw [Part.channelRequests, p.work_setChannelWork]
  split <;> rfl

/-- The offer after a channel alone has begun a line. -/
theorem Part.offer_begins {p : Part} {c : Chan} {w : Win} {job : Job} {cp : LineCopy} (soft : p.softReset ≠ .draining)
    (requests : p.arbiter.access = none → p.touchRequests = false ∧ (∀ d, d ≠ c → p.channelRequests d = false) ∧
      ∀ q, p.portRequests q = false) :
    (p.setChannelWork c (.serving w job (some cp))).offer =
      if p.arbiter.access.isSome then p.setChannelWork c (.serving w job (some cp))
      else (p.setChannelWork c (.serving w job (some cp))).grantChannel c := by
  split
  case isTrue busy => exact Part.offer_busy busy
  case isFalse notBusy =>
    have free : p.arbiter.access = none := by simpa using notBusy
    obtain ⟨touch, channels, ports⟩ := requests free
    refine Part.offer_onlyChannel free soft touch ?_ (fun d hd => ?_) ports
    · rw [p.channelRequests_setChannelWork, if_pos rfl]
      rfl
    · rw [p.channelRequests_setChannelWork, if_neg hd]
      exact channels d hd

theorem Part.grantChannel_eq {p : Part} {c : Chan} {cp : LineCopy} (h : (p.channel c).work.lineCopy? = some cp) :
    p.grantChannel c =
      { p with arbiter :=
          p.arbiter.grantedToChannel c (copierAccess (.channel c) cp (p.channel c).holding p.arbiter.accessTime) } := by
  rw [Part.grantChannel, h]
  rfl

theorem Part.atRest_grantChannel {p : Part} (h : p.atRest = true) (c : Chan) : (p.grantChannel c).atRest = true := by
  unfold Part.grantChannel
  split
  · exact h
  · exact Part.atRest_congr (p := p) rfl rfl (fun _ => rfl) h

/-- A job taken is its line begun, and the grant of its first read to a free memory port (R79, R139). -/
theorem Part.jobTaken_eq (p : Part) (c : Chan) (w : Win) (job : Job) (sv : Service) (line : Nat) :
    p.jobTaken c w job sv line =
      let q := p.setChannelWork c (.serving w job (some (sv.startLine (sv.jobSource job) (sv.jobTarget job) line)))
      if p.arbiter.access.isSome then q else q.grantChannel c := by
  have work : ∀ k, ((p.setChannelWork c k).channel c).work = k := fun k => by
    rw [p.work_setChannelWork, if_pos rfl]
  unfold Part.jobTaken
  dsimp only
  rw [Part.grantChannel_eq (p := p.setChannelWork c _) (by rw [work]; rfl)]
  cases job <;> rfl

/-! ## A round in which one channel begins -/

/-- A channel that served without a line begins the lowest free one, and nothing else begins (R79). -/
theorem Part.round_selects {p : Part} {c : Chan} {w : Win} {job : Job} {sv : Service} {line : Nat}
    (others : ∀ d, d ≠ c → p.channelHolds d = true) (jobs : p.freeChannel? = none ∨ p.copy.waiting = [])
    (queues : p.QueuesHold) (serves : (p.channel c).work = .serving w job none)
    (unmasked : (p.channel c).masked = false) (hs : p.service w = some sv)
    (lowest : lowestLine? (lessLines (sv.stale.get (sv.jobTarget job)) (p.inCopyLines w)) = some line) :
    let q := p.setChannelWork c
      (.serving w job (some (sv.startLine (sv.jobSource job) (sv.jobTarget job) line)))
    q.atRest = true ∧ p.round = q := by
  generalize hcp : sv.startLine (sv.jobSource job) (sv.jobTarget job) line = cp
  intro q
  have step : p.channelStep c = q := by
    change _ = p.setChannelWork c (.serving w job (some cp))
    rw [← hcp]
    exact Part.channelStep_lowest serves unmasked hs lowest
  have free : q.freeChannel? = p.freeChannel? := by
    unfold Part.freeChannel?
    congr 1
    funext d
    rw [p.work_setChannelWork, p.masked_setChannelWork]
    by_cases h : d = c
    · subst h
      simp [serves]
    · rw [if_neg h]
  have rest : q.atRest = true :=
    Part.atRest_begins (l := p.copy.waiting) others (by rw [serves]; rfl) (jobs.imp_left free.trans) queues
  have steps : p.stepChannels = q := by
    rw [← step]
    refine Part.stepChannels_only others fun d => ?_
    rw [step]
    exact (Part.atRest_iff_queues.mp rest).1 d
  exact ⟨rest, Part.round_of_steps steps rest⟩

/-- The same as an event settles in a part with no request behind a free memory port. -/
theorem Part.settle_selects {p : Part} {c : Chan} {w : Win} {job : Job} {sv : Service} {line : Nat}
    (others : ∀ d, d ≠ c → p.channelHolds d = true) (jobs : p.freeChannel? = none ∨ p.copy.waiting = [])
    (queues : p.QueuesHold) (idle : p.noIdleRequest = true) (soft : p.softReset ≠ .draining)
    (serves : (p.channel c).work = .serving w job none) (unmasked : (p.channel c).masked = false)
    (hs : p.service w = some sv)
    (lowest : lowestLine? (lessLines (sv.stale.get (sv.jobTarget job)) (p.inCopyLines w)) = some line) :
    p.settle = p.jobTaken c w job sv line := by
  obtain ⟨rest, round⟩ := Part.round_selects others jobs queues serves unmasked hs lowest
  rw [Part.jobTaken_eq]
  dsimp only
  rw [Part.settle, round, Part.round_rest rest]
  refine Part.offer_begins soft fun none => ?_
  obtain ⟨touch, channels, ports⟩ := Part.requests_of_idle idle none
  exact ⟨touch, fun d _ => channels d, ports⟩

theorem Part.freeChannel?_none_of_idle {p : Part} (h : p.freeChannel? = none) {c : Chan}
    (idle : (p.channel c).work = .idle) : (p.channel c).masked = true := by
  have := List.find?_eq_none.mp h c (mem_allChannels c)
  simpa [idle] using this

/-- The head of the list is taken by the free channel, which begins a line, and nothing else begins (R78). -/
theorem Part.round_takes {p : Part} {c : Chan} {e : WaitEntry} {l : List WaitEntry} {sv : Service} {line : Nat}
    (channels : ∀ d, p.channelHolds d = true) (queues : p.QueuesHold) (free : p.freeChannel? = some c)
    (waiting : p.copy.waiting = e :: l) (hs : p.service e.window = some sv)
    (alone : ∀ d, d ≠ c → (p.channel d).work.served? ≠ some e.window)
    (last : ∀ k, (p.setChannelWork c (.serving e.window e.job (some k))).freeChannel? = none ∨ l = [])
    (lowest : lowestLine? (lessLines (sv.stale.get (sv.jobTarget e.job)) (p.inCopyLines e.window)) = some line) :
    let q := (p.setWaiting l).setChannelWork c
      (.serving e.window e.job (some (sv.startLine (sv.jobSource e.job) (sv.jobTarget e.job) line)))
    q.atRest = true ∧ p.round = if p.portContended then q else q.grantChannel c := by
  obtain ⟨idle, unmasked⟩ := Part.freeChannel?_spec free
  have empty : (p.channel c).work.lineCopy? = none := by rw [idle]; rfl
  generalize hcp : sv.startLine (sv.jobSource e.job) (sv.jobTarget e.job) line = cp
  intro q
  have rest : q.atRest = true := Part.atRest_begins (fun d _ => channels d) empty (last cp) queues
  refine ⟨rest, ?_⟩
  have sameMarks : ∀ v, ((p.setWaiting l).setChannelWork c (.serving e.window e.job none)).inCopyLines v =
      p.inCopyLines v := by
    intro v
    apply BitVec.eq_of_getLsbD_eq
    intro i _
    have iff : lineIn (((p.setWaiting l).setChannelWork c (.serving e.window e.job none)).inCopyLines v) i = true ↔
        lineIn (p.inCopyLines v) i = true := by
      refine ⟨fun h => ?_, fun h => Part.inCopyLines_begins (p := p.setWaiting l) empty _ h⟩
      rw [Part.lineIn_inCopyLines] at h ⊢
      refine h.imp (fun ⟨d, hd⟩ => ⟨d, ?_⟩) id
      rw [(p.setWaiting l).work_setChannelWork] at hd
      split at hd
      case isFalse => exact hd
      case isTrue h =>
        rw [ChannelWork.mark_of_noLine rfl, lineIn_noLines] at hd
        cases hd
    exact Bool.eq_iff_iff.mpr iff
  have takes : p.takeHead c e l = q := by
    rw [Part.takeHead_begins hs alone (line := line) (by rw [sameMarks]; exact lowest), hcp]
  have granted : (q.grantChannel c).atRest = true := Part.atRest_grantChannel rest c
  have steps : p.stepChannels = p := by
    have : ∀ d, p.channelStep d = p := fun d => Part.channelStep_rest (channels d)
    simp only [Part.stepChannels, this]
  have chosen : (q.chooseAtOnce p.portContended c).atRest = true := by
    unfold Part.chooseAtOnce
    split
    exacts [rest, granted]
  obtain ⟨copy, stalls⟩ := Part.atRest_iff.mp chosen
  have jobs : Part.takeJobs takeFuel p = q.chooseAtOnce p.portContended c := by
    unfold takeFuel Part.takeJobs
    rw [free, waiting]
    dsimp only
    rw [takes]
    exact Part.takeJobs_rest copy 39
  unfold Part.round
  dsimp only
  rw [steps, jobs, Part.touchTake_rest copy, Part.makeDeferred_rest copy, Part.makeDeferred_rest copy,
    Part.reclassify_rest (stalls .a), Part.reclassify_rest (stalls .b)]
  rfl

/-- The same as an event settles in a part with no request behind a free memory port. -/
theorem Part.settle_takes {p : Part} {c : Chan} {e : WaitEntry} {l : List WaitEntry} {sv : Service} {line : Nat}
    (channels : ∀ d, p.channelHolds d = true) (queues : p.QueuesHold) (idle : p.noIdleRequest = true)
    (free : p.freeChannel? = some c) (waiting : p.copy.waiting = e :: l)
    (hs : p.service e.window = some sv) (alone : ∀ d, d ≠ c → (p.channel d).work.served? ≠ some e.window)
    (last : ∀ k, (p.setChannelWork c (.serving e.window e.job (some k))).freeChannel? = none ∨ l = [])
    (lowest : lowestLine? (lessLines (sv.stale.get (sv.jobTarget e.job)) (p.inCopyLines e.window)) = some line) :
    p.settle = (p.setWaiting l).jobTaken c e.window e.job sv line := by
  obtain ⟨rest, round⟩ := Part.round_takes channels queues free waiting hs alone last lowest
  rw [Part.jobTaken_eq]
  dsimp only
  generalize hcp : sv.startLine (sv.jobSource e.job) (sv.jobTarget e.job) line = cp at *
  have work : ((((p.setWaiting l).setChannelWork c (.serving e.window e.job (some cp))).channel c).work).lineCopy? =
      some cp := by
    rw [(p.setWaiting l).work_setChannelWork, if_pos rfl]
    rfl
  rw [Part.settle, round]
  by_cases busy : p.arbiter.access.isSome = true
  · have contended : p.portContended = true := by simp [Part.portContended, busy]
    have busy' : (p.setWaiting l).arbiter.access.isSome = true := busy
    rw [if_pos contended, if_pos busy', Part.round_rest rest]
    exact Part.offer_busy busy
  · have contended : ¬ p.portContended = true := by simpa [Part.noIdleRequest, busy] using idle
    have notBusy : ¬ (p.setWaiting l).arbiter.access.isSome = true := busy
    rw [if_neg contended, if_neg notBusy, Part.round_rest (Part.atRest_grantChannel rest c)]
    refine Part.offer_busy ?_
    rw [Part.grantChannel_eq work]
    rfl

end Sys2Proof.Machine
end

section
/-!
The producer's commands on CONTROL: abandon (03_release_flip_and_pinning.md R55) and explicit release (R48 to R52), and
how the event settles that a joining window brings about.
-/

namespace Sys2Proof.Machine

/-! ## A changed record -/

theorem Part.copyStatus_congr {p q : Part} (copy : q.copy = p.copy) (w : Win) : q.copyStatus w = p.copyStatus w := by
  simp only [Part.copyStatus, Part.servedBy, Part.entryOf, Part.channel, copy]

theorem Part.freeChannel?_congr {p q : Part} (copy : q.copy = p.copy) : q.freeChannel? = p.freeChannel? := by
  have channel : q.channel = p.channel := funext fun c => by simp only [Part.channel, copy]
  unfold Part.freeChannel?
  rw [channel]

theorem Part.service_setRecord_same (p : Part) (w : Win) (r : Record) : (p.setRecord w r).service w = r.service := by
  rw [Part.service, Part.record_setRecord_same]

theorem Part.service_setRecord_ne (p : Part) {v w : Win} (h : v ≠ w) (r : Record) :
    (p.setRecord w r).service v = p.service v := by
  rw [Part.service, Part.record_setRecord_ne p h]
  rfl

/-- A window's record changed so that its stalls, which stand, still stand. -/
theorem Part.QueuesHold.setRecord {p : Part} (h : p.QueuesHold) {w : Win} {sv sv' : Service} {r : Record}
    (hs : p.service w = some sv) (hr : r.service = some sv') (retiring : sv'.retiring = sv.retiring)
    (pending : sv.releasePending = true → sv'.releasePending = true)
    (stale : sv.retiring = false → ∀ l, lineIn sv.backStale l = true → lineIn sv'.backStale l = true) :
    (p.setRecord w r).QueuesHold where
  touch := h.touch
  deferred := h.deferred
  stalls q := by
    have now : (p.setRecord w r).service w = some sv' := (p.service_setRecord_same w r).trans hr
    have serves : ∀ v l, (p.setRecord w r).touchServes q v l = p.touchServes q v l := fun _ _ => rfl
    refine Part.stallHolds_iff.mpr fun a st n ha hp => ?_
    have old := Part.stallHolds_iff.mp (h.stalls q) a st n ha hp
    cases st with
    | retiring v =>
      by_cases e : v = w
      · subst e
        simpa [Part.stallEnded, hs, now, retiring] using old
      · simpa [Part.stallEnded, p.service_setRecord_ne e] using old
    | releasePending v =>
      by_cases e : v = w
      · subst e
        simp only [Part.stallEnded, hs, Bool.not_eq_false'] at old
        simp [Part.stallEnded, now, pending old]
      · simpa [Part.stallEnded, p.service_setRecord_ne e] using old
    | touchWait v l =>
      by_cases e : v = w
      · subst e
        simp only [Part.stallEnded, hs, now, serves, retiring] at old ⊢
        cases ret : sv.retiring with
        | true => simpa [ret] using old
        | false =>
          simp only [ret, Bool.false_eq_true, if_false, Bool.not_eq_false'] at old ⊢
          exact stale ret l old
      · simpa only [Part.stallEnded, p.service_setRecord_ne e, serves] using old

theorem Part.QueuesHold.setWaiting {p : Part} (h : p.QueuesHold) (l : List WaitEntry) : (p.setWaiting l).QueuesHold where
  touch := h.touch
  deferred := h.deferred
  stalls q := Part.stallHolds_iff.mpr fun a st n ha hp => by
    rw [Part.stallEnded_congr (p := p) (q := p.setWaiting l) rfl (fun _ => rfl)]
    exact Part.stallHolds_iff.mp (h.stalls q) a st n ha hp

/-- A channel that does not serve the window without a line does not look at the window's record. -/
theorem Part.channelHolds_setRecord {p : Part} {c : Chan} {w : Win} (apart : ∀ job, (p.channel c).work ≠ .serving w job none)
    (r : Record) (h : p.channelHolds c = true) : (p.setRecord w r).channelHolds c = true := by
  refine Part.channelHolds_iff.mpr fun v job serves => ?_
  have ne : v ≠ w := fun e => apart job (e ▸ serves)
  obtain ⟨unmasked, within⟩ := Part.channelHolds_iff.mp h v job serves
  refine ⟨unmasked, fun sv hs => within sv ?_⟩
  rwa [p.service_setRecord_ne ne] at hs

theorem Part.channelHolds_setWaiting {p : Part} {c : Chan} (h : p.channelHolds c = true) (l : List WaitEntry) :
    (p.setWaiting l).channelHolds c = true :=
  Part.channelHolds_iff.mpr (Part.channelHolds_iff.mp h)

theorem Part.setWaiting_self {p : Part} {l : List WaitEntry} (h : p.copy.waiting = l) : p.setWaiting l = p := by
  subst h
  rfl

theorem Part.not_served_of_noPlace {p : Part} {w : Win} (h : p.copyStatus w = .none) (c : Chan) :
    (p.channel c).work.served? ≠ some w :=
  fun hc => Part.copyStatus_none_iff.mp h (.inr ⟨c, hc⟩)

theorem Part.not_serving_of_noPlace {p : Part} {w : Win} (h : p.copyStatus w = .none) (c : Chan) (job : Job)
    (cp : Option LineCopy) : (p.channel c).work ≠ .serving w job cp :=
  fun hc => Part.not_served_of_noPlace h c (by rw [hc]; rfl)

/-! ## A window that joins -/

/-- A window that joins for CATCH_UP waits, or is taken at once by the free channel (R78, R83). -/
theorem Part.settle_joins {p : Part} {w : Win} {sv : Service} (channels : ∀ d, p.channelHolds d = true)
    (jobs : p.freeChannel? = none ∨ p.copy.waiting = []) (queues : p.QueuesHold) (idle : p.noIdleRequest = true)
    (noPlace : p.copyStatus w = .none) (hs : p.service w = some sv) :
    (p.freeChannel? = none →
      (p.join w .catchUp).settle = p.setWaiting (p.copy.waiting ++ [⟨w, .catchUp, false⟩])) ∧
    (∀ c line, p.freeChannel? = some c → lowestLine? (lessLines sv.backStale (p.inCopyLines w)) = some line →
      (p.join w .catchUp).settle = p.jobTaken c w .catchUp sv line) := by
  have joins : p.join w .catchUp = p.setWaiting (p.copy.waiting ++ [⟨w, .catchUp, false⟩]) := by
    rw [Part.join, if_pos noPlace]
  have holds : ∀ l, ∀ d, (p.setWaiting l).channelHolds d = true := fun l d => Part.channelHolds_setWaiting (channels d) l
  have stillIdle : ∀ l, (p.setWaiting l).noIdleRequest = true := fun _ => idle
  refine ⟨fun none => ?_, fun c line free lowest => ?_⟩
  · rw [joins]
    exact Part.settle_idle (Part.atRest_iff_queues.mpr ⟨holds _, .inl none, queues.setWaiting _⟩) (stillIdle _)
  · have empty : p.copy.waiting = [] := jobs.resolve_left (by simp [free])
    have back := Part.setWaiting_self (p := p) (l := []) empty
    rw [joins, empty, List.nil_append]
    rw [Part.settle_takes (p := p.setWaiting [⟨w, .catchUp, false⟩]) (l := []) (holds _) (queues.setWaiting _)
      (stillIdle _) free rfl hs (fun d _ => Part.not_served_of_noPlace noPlace d) (fun _ => .inr rfl) lowest]
    have twice : (p.setWaiting [⟨w, .catchUp, false⟩]).setWaiting [] = p.setWaiting [] := rfl
    rw [twice, back]

/-! ## Abandon -/

theorem Part.abandon_eq {p : Part} {w : Win} {sv left : Service} (hs : p.service w = some sv)
    (hl : left = { sv with stale := sv.stale.set sv.back (sv.backStale ||| sv.dirty), dirty := 0#64 }) :
    p.abandon w =
      if left.backStale = noLines then p.setService w left else (p.setService w left).join w .catchUp := by
  rw [Part.abandon, hs, hl]
  rfl

theorem Service.backStale_abandoned {sv left : Service}
    (hl : left = { sv with stale := sv.stale.set sv.back (sv.backStale ||| sv.dirty), dirty := 0#64 }) :
    left.backStale = joinLines sv.backStale sv.dirty := by
  rw [hl]
  exact PerBank.get_set_same _ _ _

/-- Settles O16: the dirty lines are discarded, and the window goes on with the place it has, or joins. -/
theorem abandon : Obligations.Abandon := by
  unfold Obligations.Abandon
  intro q w s sv producer quiet isOpen left p free
  have soft : s.part.softReset ≠ .draining := State.canPresent_soft quiet.1
  obtain ⟨rest, idle⟩ := State.answered_quiet quiet none
  generalize hp0 : s.part.withPort q (.answered none) = p0 at rest idle
  have hs : p0.service w = some sv := by rw [← hp0]; exact isOpen.2.1
  have copy : p0.copy = s.part.copy := by rw [← hp0]; rfl
  have hp : p = p0.setService w left := by rw [← hp0]
  have copyP : p.copy = s.part.copy := by rw [hp]; exact copy
  have ends : exec (.abandon w) s = .next (s.onPart (p0.abandon w).settle) := by
    rw [exec_abandon quiet isOpen producer, hp0]
  have grown : left.backStale = joinLines sv.backStale sv.dirty := Service.backStale_abandoned rfl
  have becomes : p0.abandon w = if left.backStale = noLines then p else p.join w .catchUp := by
    rw [Part.abandon_eq hs rfl, hp]
  obtain ⟨channels, jobs, queues⟩ := Part.atRest_iff_queues.mp rest
  have queuesP : p.QueuesHold := by
    rw [hp]
    refine queues.setRecord (sv' := left) hs rfl rfl id fun _ l hl => ?_
    rw [grown, lineIn_joinLines, hl, Bool.true_or]
  have idleP : p.noIdleRequest = true := by
    rw [hp]
    exact Part.noIdleRequest_congr (p := p0) rfl rfl rfl idle
  have jobsP : p.freeChannel? = none ∨ p.copy.waiting = [] := by rw [hp]; exact jobs
  have service : p.service w = some left := by rw [hp, Part.service, Part.record_setService_same]
  have freeP : p.freeChannel? = s.part.freeChannel? := Part.freeChannel?_congr copyP
  have statusP : p.copyStatus w = s.part.copyStatus w := Part.copyStatus_congr copyP w
  have lines : p.inCopyLines w = s.part.inCopyLines w := Part.inCopyLines_congr copyP w
  have channel : ∀ c, p.channel c = s.part.channel c := fun c => by simp only [Part.channel, copyP]
  have holds : ∀ d, (∀ job, (s.part.channel d).work ≠ .serving w job none) → p.channelHolds d = true := by
    intro d apart
    rw [hp]
    refine Part.channelHolds_setRecord (fun job => ?_) _ (channels d)
    have same : p0.channel d = s.part.channel d := by simp only [Part.channel, copy]
    rw [same]
    exact apart job
  have stays : s.part.copyStatus w ≠ .none ∨ left.backStale = 0#64 → p0.abandon w = p := by
    rintro (placed | clean)
    · rw [becomes, Part.join, statusP, if_neg placed, ite_self]
    · rw [becomes]
      exact if_pos clean
  have joins : left.backStale ≠ noLines → p0.abandon w = p.join w .catchUp := fun dirty => by
    rw [becomes, if_neg dirty]
  refine ⟨fun ⟨apart, placed⟩ => ?_, fun c line ⟨serves, alone, lowest⟩ => ?_, fun ⟨noPlace, dirty, busy⟩ => ?_,
    fun c line ⟨noPlace, isFree, lowest⟩ => ?_⟩
  · rw [ends, stays placed]
    rw [Part.settle_idle (Part.atRest_iff_queues.mpr ⟨fun d => holds d (apart d), jobsP, queuesP⟩) idleP]
  · have placed : s.part.copyStatus w ≠ .none := fun h => Part.not_serving_of_noPlace h c _ _ serves
    have unmasked : (p.channel c).masked = false := by
      have same : p0.channel c = s.part.channel c := by simp only [Part.channel, copy]
      rw [channel, ← same]
      exact (Part.channelHolds_iff.mp (channels c) w .catchUp (same ▸ serves)).1
    rw [ends, stays (.inl placed)]
    rw [Part.settle_selects (fun d hd => holds d (alone d hd)) jobsP queuesP idleP
      (by rw [hp, ← hp0]; exact soft) (by rw [channel]; exact serves) unmasked service (line := line)
      (by rw [lines]; exact lowest)]
  · have all : ∀ d, p.channelHolds d = true := fun d => holds d fun job => Part.not_serving_of_noPlace noPlace d job none
    rw [ends, joins dirty, (Part.settle_joins all jobsP queuesP idleP (statusP.trans noPlace) service).1 (freeP.trans busy),
      copyP]
  · have all : ∀ d, p.channelHolds d = true := fun d => holds d fun job => Part.not_serving_of_noPlace noPlace d job none
    rw [ends, joins (ne_noLines_of_lessLines (t := s.part.inCopyLines w) lowest),
      (Part.settle_joins all jobsP queuesP idleP (statusP.trans noPlace) service).2 c line (freeP.trans isFree)
        (by rw [lines]; exact lowest)]

end Sys2Proof.Machine
end

section
/-!
Explicit release (03_release_flip_and_pinning.md R48 to R52): the record a release leaves, the release performed in the
event, and the one that stays pending with its promotion (04_copy_engine.md R84).
-/

namespace Sys2Proof.Machine

/-! ## A release -/

/-- The new back is the dropped ready bank, else the bank without a role (R49). -/
theorem Service.newBack_eq {sv : Service} {new : Bank} (roles : sv.rolesDistinct = true)
    (dropped : ∀ image, sv.ready = some image → new = image.bank)
    (spare : sv.ready = none → new ≠ sv.front ∧ new ≠ sv.back) : sv.newBack = new := by
  unfold Service.newBack
  cases h : sv.ready with
  | some image => exact (dropped image h).symm
  | none =>
    have := (Service.spare_iff (Service.rolesDistinct_iff.mp roles).1 h new).mpr (spare h)
    simp only [this, Option.getD_some]

theorem saturate_eq_min (n : Nat) : saturate n = min (n + 1) 255 := by
  unfold saturate
  split <;> omega

/-- The stale set of a bank after a release (R49). -/
def Service.gained (sv : Service) (k : Bank) : LineSet :=
  if k = sv.back then sv.stale.get k else sv.stale.get k ||| sv.dirty

theorem Service.staleAfterRelease_get (sv : Service) (k : Bank) : sv.staleAfterRelease.get k = sv.gained k := by
  cases k <;> rfl

theorem PerBank.get_mk {α : Type} (f : Bank → α) (k : Bank) : (⟨f .b0, f .b1, f .b2⟩ : PerBank α).get k = f k := by
  cases k <;> rfl

/-- The service state after a release into `new` (R49, R50). -/
def Service.afterRelease (sv : Service) (number : Word) (new : Bank) : Service :=
  { sv with
    ready := some ⟨sv.back, number, lineCount sv.dirty⟩, back := new
    stale := ⟨sv.gained .b0, sv.gained .b1, sv.gained .b2⟩, dirty := 0#64, releasePending := false, carried := false }

theorem Service.backStale_afterRelease (sv : Service) (number : Word) (new : Bank) :
    (sv.afterRelease number new).backStale = sv.gained new :=
  PerBank.get_mk sv.gained new

theorem Record.released_eq (r : Record) {sv : Service} {new : Bank} (hn : sv.newBack = new) :
    r.released sv = { r with
      next := r.next + 1#16, dropped := if sv.ready.isSome then saturate r.dropped else r.dropped
      service := some (sv.afterRelease r.next new) } := by
  subst hn
  rfl

/-- A release: DROPPED for a ready image found, the record, and BACK_READY or the window's joining (R49 to R51). -/
theorem Part.release_eq {p : Part} {w : Win} {sv : Service} {new : Bank} (hs : p.service w = some sv)
    (hn : sv.newBack = new) :
    p.release w =
      let noted := if sv.ready.isSome then p.note sv.consumer w .dropped else p
      let released := noted.setRecord w ((p.record w).released sv)
      if sv.gained new = noLines then released.note sv.geometry.producer w .backReady else released.join w .catchUp := by
  subst hn
  rw [Part.release, hs, ← Service.staleAfterRelease_get]

theorem Part.explicitRelease_caughtUp {p : Part} {w : Win} {sv : Service} (hs : p.service w = some sv)
    (stale : sv.backStale = noLines) (copied : p.inCopyLines w = noLines) : p.explicitRelease w = p.release w := by
  have caughtUp : p.caughtUp w sv = true := by simp [Part.caughtUp, stale, copied]
  rw [Part.explicitRelease, hs]
  dsimp only
  rw [if_pos caughtUp]

/-- Settles O17: the release is performed, the window's stalls stand as they did, and the window joins where the new back
is behind. -/
theorem explicitReleaseAtOnce : Obligations.ExplicitReleaseAtOnce := by
  unfold Obligations.ExplicitReleaseAtOnce
  intro q w s sv new producer quiet isOpen roles fresh copied dropped spare r gained after answered noted p
  obtain ⟨rest, idle⟩ := State.answered_quiet quiet none
  change answered.atRest = true at rest
  change answered.noIdleRequest = true at idle
  have hs : answered.service w = some sv := isOpen.2.1
  have newBack : sv.newBack = new := Service.newBack_eq roles dropped spare
  have newNotBack : new ≠ sv.back := newBack ▸ (Service.newBack_spec roles).2
  have open' : sv.releasePending = false := isOpen.2.2.2.2.2.2.1 producer
  have consumer : sv.consumer = q.other := by rw [Service.consumer, producer]
  -- the part with DROPPED noted, where an image is dropped, has no more to begin
  have notedRest : noted.atRest = true := by
    change (if sv.ready.isSome then _ else _ : Part).atRest = true
    split
    exacts [Part.atRest_note rest _ _ _, rest]
  have notedSame : noted.records = answered.records ∧ noted.copy = answered.copy ∧ noted.arbiter = answered.arbiter ∧
      noted.ports = answered.ports := by
    change (if sv.ready.isSome then _ else _ : Part).records = _ ∧ (if sv.ready.isSome then _ else _ : Part).copy = _ ∧
      (if sv.ready.isSome then _ else _ : Part).arbiter = _ ∧ (if sv.ready.isSome then _ else _ : Part).ports = _
    split <;> exact ⟨rfl, rfl, rfl, rfl⟩
  obtain ⟨records, copy, arbiter, ports⟩ := notedSame
  have copyP : p.copy = s.part.copy := copy
  have notedIdle : p.noIdleRequest = true :=
    Part.noIdleRequest_congr (p := answered) ports copy (by rw [← arbiter]; rfl) idle
  have hsn : noted.service w = some sv := by rw [Part.service_of_records records]; exact hs
  have released : (answered.record w).released sv = { r with
      next := r.next + 1#16, dropped := if sv.ready.isSome then min (r.dropped + 1) 255 else r.dropped
      service := some after } := by
    rw [Record.released_eq _ newBack, saturate_eq_min]
    rfl
  have becomes : answered.release w =
      if gained new = noLines then p.note q w .backReady else p.join w .catchUp := by
    rw [Part.release_eq hs newBack, consumer, released, producer]
    rfl
  have ends : exec (.explicitRelease w) s = .next (s.onPart (answered.release w).settle) := by
    rw [exec_explicitRelease quiet isOpen producer]
    change Host.Outcome.next (s.onPart (answered.explicitRelease w).settle) = _
    rw [Part.explicitRelease_caughtUp hs fresh copied]
  obtain ⟨channels, jobs, queues⟩ := Part.atRest_iff_queues.mp notedRest
  have queuesP : p.QueuesHold := by
    refine queues.setRecord (sv' := after) hsn rfl rfl (fun h => ?_) fun _ l hl => ?_
    · rw [open'] at h
      cases h
    · rw [fresh, show (0#64) = noLines from rfl, lineIn_noLines] at hl
      cases hl
  have jobsP : p.freeChannel? = none ∨ p.copy.waiting = [] := jobs
  have serviceP : p.service w = some after := by rw [Part.service_setRecord_same]
  have freeP : p.freeChannel? = s.part.freeChannel? := Part.freeChannel?_congr copyP
  have statusP : p.copyStatus w = s.part.copyStatus w := Part.copyStatus_congr copyP w
  have lines : p.inCopyLines w = noLines := (Part.inCopyLines_congr copyP w).trans copied
  have stale : after.backStale = gained new := Service.backStale_afterRelease sv r.next new
  have apart : s.part.copyStatus w = .none → ∀ d, p.channelHolds d = true := by
    intro noPlace d
    refine Part.channelHolds_setRecord (fun job => ?_) _ (channels d)
    have same : noted.channel d = s.part.channel d := by
      simp only [Part.channel, copy]
      rfl
    rw [same]
    exact Part.not_serving_of_noPlace noPlace d job none
  have free : ∀ l, lineIn (lessLines after.backStale (p.inCopyLines w)) l = lineIn (gained new) l := fun l => by
    rw [stale, lines, lineIn_lessLines, lineIn_noLines, Bool.not_false, Bool.and_true]
  refine ⟨fun clean => ?_, fun ⟨behind, noPlace, busy⟩ => ?_, fun c line ⟨noPlace, isFree, lowest⟩ => ?_⟩
  · have unwritten : ∀ l, lineIn sv.dirty l = false := by
      intro l
      have := eq_noLines_iff.mp (show gained new = noLines from clean) l
      change lineIn (if new = sv.back then _ else joinLines _ _) l = false at this
      rw [if_neg newNotBack, lineIn_joinLines, Bool.or_eq_false_iff] at this
      exact this.2
    have less : ∀ k l, lineIn (gained k) l = true → lineIn (sv.stale.get k) l = true := by
      intro k l h
      change lineIn (if k = sv.back then _ else joinLines _ _) l = true at h
      split at h
      · exact h
      · rwa [lineIn_joinLines, unwritten, Bool.or_false] at h
    have all : ∀ d, p.channelHolds d = true := by
      intro d
      refine Part.channelHolds_iff.mpr fun v job serves => ?_
      obtain ⟨unmasked, within⟩ := Part.channelHolds_iff.mp (channels d) v job serves
      refine ⟨unmasked, fun sv' hv l hl => ?_⟩
      by_cases e : v = w
      · subst e
        rw [serviceP, Option.some.injEq] at hv
        subst hv
        cases job with
        | catchUp =>
          have : lineIn after.backStale l = true := hl
          rw [stale, show gained new = noLines from clean, lineIn_noLines] at this
          cases this
        | retire => exact within sv hsn l (less .b0 l hl)
      · rw [noted.service_setRecord_ne e] at hv
        exact within sv' hv l hl
    rw [ends, becomes, if_pos (show gained new = noLines from clean)]
    have restP : p.atRest = true := Part.atRest_iff_queues.mpr ⟨all, jobsP, queuesP⟩
    rw [Part.settle_idle (Part.atRest_note restP _ _ _) (Part.noIdleRequest_congr (p := p) rfl rfl rfl notedIdle)]
  · rw [ends, becomes, if_neg (show gained new ≠ noLines from behind),
      (Part.settle_joins (apart noPlace) jobsP queuesP notedIdle (statusP.trans noPlace) serviceP).1 (freeP.trans busy),
      copyP]
  · have lowest' : lowestLine? (lessLines after.backStale (p.inCopyLines w)) = some line := by
      simpa only [lowestLine?, free] using lowest
    rw [ends, becomes, if_neg (ne_noLines_of_lowest lowest),
      (Part.settle_joins (apart noPlace) jobsP queuesP notedIdle (statusP.trans noPlace) serviceP).2 c line
        (freeP.trans isFree) lowest']

/-! ## A release that stays pending -/

theorem Part.explicitRelease_pending {p : Part} {w : Win} {sv : Service} (hs : p.service w = some sv)
    (behind : sv.backStale ≠ noLines ∨ p.inCopyLines w ≠ noLines) :
    p.explicitRelease w = (p.setService w { sv with releasePending := true }).promote w := by
  have notCaughtUp : p.caughtUp w sv = false := by
    rcases behind with h | h <;> simp [Part.caughtUp, h]
  rw [Part.explicitRelease, hs]
  dsimp only
  rw [if_neg (by simp [notCaughtUp])]

/-- A promotion of an entry that is not promoted (R84). -/
theorem Part.promote_entry {p : Part} {w : Win} {job : Job} (jobs : p.JobsOk)
    (entry : (⟨w, job, false⟩ : WaitEntry) ∈ p.copy.waiting) :
    p.promote w = p.setWaiting
      (p.copy.waiting.filter (fun e => e.promoted) ++ [⟨w, job, true⟩] ++
        p.copy.waiting.filter (fun e => !e.promoted && decide (e.window ≠ w))) := by
  have only : ∀ e ∈ p.copy.waiting, e.window = w → e = ⟨w, job, false⟩ := fun e he hw =>
    List.inj_on_of_nodup_map jobs.once he entry hw
  have found : p.entryOf w = some ⟨w, job, false⟩ := by
    unfold Part.entryOf
    cases h : p.copy.waiting.find? (fun e => e.window = w) with
    | none =>
      have := List.find?_eq_none.mp h _ entry
      simp at this
    | some e =>
      rw [only e (List.mem_of_find?_eq_some h) (by simpa using List.find?_some h)]
  have ahead : (p.copy.waiting.filter (fun x => x.window ≠ w)).filter (fun e => e.promoted) =
      p.copy.waiting.filter (fun e => e.promoted) := by
    rw [List.filter_filter]
    refine List.filter_congr fun e he => ?_
    cases hp : e.promoted with
    | false => rfl
    | true =>
      have : e.window ≠ w := fun hw => by
        rw [only e he hw] at hp
        cases hp
      simp [this]
  unfold Part.promote
  rw [found]
  simp only [Bool.false_eq_true, if_false]
  rw [placePromoted_eq (promotedFirst_filter jobs.promoted _), ahead, List.filter_filter]
  simp

/-- A promoted entry stays where it is, and a served window has none (R84). -/
theorem Part.promote_stays {p : Part} {w : Win} (h : ∀ e ∈ p.copy.waiting, e.window = w → e.promoted = true) :
    p.promote w = p := by
  unfold Part.promote
  split
  case h_1 => rfl
  case h_2 e found =>
    have promoted := h e (List.mem_of_find?_eq_some found) (by simpa using List.find?_some found)
    rw [if_pos promoted]

/-- Settles O18: the pending release begins no work, and the promotion only orders the waiting list anew. -/
theorem explicitReleasePending : Obligations.ExplicitReleasePending := by
  unfold Obligations.ExplicitReleasePending
  intro q w s sv producer quiet isOpen waitingOk behind p l
  obtain ⟨rest, idle⟩ := State.answered_quiet quiet none
  generalize hp0 : s.part.withPort q (.answered none) = p0 at rest idle
  have hp : p = p0.setService w { sv with releasePending := true } := by rw [← hp0]
  have hs : p0.service w = some sv := by rw [← hp0]; exact isOpen.2.1
  have copy : p0.copy = s.part.copy := by rw [← hp0]; rfl
  have waiting : p.copy.waiting = l := by
    rw [hp, Part.setService_copy, copy]
  have jobsOk : p.JobsOk := by
    rw [hp]
    refine (Part.waitingOk_iff.mp waitingOk).sameCopy ?_
    refine Part.SameCopy.trans ?_ (Part.sameCopy_setService p0 w _)
    rw [← hp0]
    exact .of_records rfl rfl
  have ends : exec (.explicitRelease w) s = .next (s.onPart (p.promote w).settle) := by
    rw [exec_explicitRelease quiet isOpen producer, hp0, Part.explicitRelease_pending hs, hp]
    rw [Part.inCopyLines_congr copy]
    exact behind
  obtain ⟨channels, jobs, queues⟩ := Part.atRest_iff_queues.mp rest
  have queuesP : p.QueuesHold := by
    rw [hp]
    exact queues.setRecord (sv' := { sv with releasePending := true }) hs rfl rfl (fun _ => rfl) (fun _ _ => id)
  have holds : ∀ d, p.channelHolds d = true := by
    intro d
    refine Part.channelHolds_iff.mpr fun v job serves => ?_
    rw [hp] at serves ⊢
    obtain ⟨unmasked, within⟩ := Part.channelHolds_iff.mp (channels d) v job serves
    refine ⟨unmasked, fun sv' hv i hi => ?_⟩
    by_cases e : v = w
    · subst e
      rw [Part.service, Part.record_setService_same, Option.some.injEq] at hv
      subst hv
      cases job <;> exact within sv hs i hi
    · rw [Part.setService, p0.service_setRecord_ne e] at hv
      exact within sv' hv i hi
  have jobsP : p.freeChannel? = none ∨ p.copy.waiting = [] := by rw [hp]; exact jobs
  have idleP : p.noIdleRequest = true := by
    rw [hp]
    exact Part.noIdleRequest_congr (p := p0) rfl rfl rfl idle
  refine ⟨fun job entry => ?_, fun promoted => ?_⟩
  · have busy : p.freeChannel? = none := jobsP.resolve_right fun h => by
      rw [waiting] at h
      rw [h] at entry
      cases entry
    have settled : ∀ l', (p.setWaiting l').settle = p.setWaiting l' := fun l' =>
      Part.settle_idle (Part.atRest_iff_queues.mpr
        ⟨fun d => Part.channelHolds_setWaiting (holds d) l', .inl busy, queuesP.setWaiting l'⟩) idleP
    rw [ends, Part.promote_entry jobsOk (waiting ▸ entry), waiting, settled]
  · rw [ends, Part.promote_stays (by rw [waiting]; exact promoted)]
    rw [Part.settle_idle (Part.atRest_iff_queues.mpr ⟨holds, jobsP, queuesP⟩) idleP]

end Sys2Proof.Machine
end

section
/-!
The touch wait (02_access_resolution.md R40) and the touch request it places (04_copy_engine.md R86 to R89).
-/

namespace Sys2Proof.Machine

/-! ## Rest under a longer queue -/

/-- The waiting list and the channels as they were, nothing taken from the queue or from copy: still at rest. -/
theorem Part.atRest_queue {p q : Part} (rest : p.atRest = true) (ports : q.ports = p.ports)
    (records : q.records = p.records) (channels : q.copy.channels = p.copy.channels)
    (waiting : q.copy.waiting = p.copy.waiting)
    (marks : ∀ w l, lineIn (p.inCopyLines w) l = true → lineIn (q.inCopyLines w) l = true)
    (queue : ∀ e ∈ p.copy.queue, e ∈ q.copy.queue)
    (touch : q.copy.touch.work ≠ .idle ∨
      ∀ e ∈ q.copy.queue, e.inService = false → lineIn (q.inCopyLines e.window) e.line = true)
    (draining : p.touchDraining = true → q.touchDraining = true)
    (deferred : ∀ r, q.copy.deferred.get r = p.copy.deferred.get r ∨ ∃ e ∈ q.copy.queue, e.port = r) :
    q.atRest = true := by
  obtain ⟨holds, jobs, queues⟩ := Part.atRest_iff_queues.mp rest
  have channel : q.channel = p.channel := funext fun c => by simp only [Part.channel, channels]
  have free : q.freeChannel? = p.freeChannel? := by
    unfold Part.freeChannel?
    rw [channel]
  have service : ∀ v, q.service v = p.service v := fun v => Part.service_of_records records v
  refine Part.atRest_iff_queues.mpr ⟨fun c => ?_, by rw [free, waiting]; exact jobs, touch, fun r => ?_, fun r => ?_⟩
  · refine Part.channelHolds_iff.mpr fun v job serves => ?_
    rw [channel] at serves ⊢
    obtain ⟨unmasked, within⟩ := Part.channelHolds_iff.mp (holds c) v job serves
    exact ⟨unmasked, fun sv hs l hl => marks v l (within sv (by rw [← service]; exact hs) l hl)⟩
  · have old := queues.deferred r
    simp only [Part.deferredHolds, Bool.or_eq_true, List.any_eq_true, decide_eq_true_eq] at old ⊢
    rcases deferred r with same | entry
    · rw [same]
      rcases old with (none | drains) | ⟨e, he, hr⟩
      · exact .inl (.inl none)
      · exact .inl (.inr (draining drains))
      · exact .inr ⟨e, queue e he, hr⟩
    · exact .inr entry
  · refine Part.stallHolds_iff.mpr fun a st n ha hp => ?_
    have acc : q.accessOf r = p.accessOf r := by simp only [Part.accessOf, ports]
    have old := Part.stallHolds_iff.mp (queues.stalls r) a st n (acc ▸ ha) hp
    have serves : ∀ v l, p.touchServes r v l = true → q.touchServes r v l = true := by
      intro v l h
      simp only [Part.touchServes, List.any_eq_true] at h ⊢
      obtain ⟨e, he, hr⟩ := h
      exact ⟨e, queue e he, hr⟩
    cases st with
    | touchWait v l =>
      simp only [Part.stallEnded, service] at old ⊢
      cases hs : p.service v with
      | none => simp [hs] at old
      | some sv =>
        cases ret : sv.retiring with
        | true =>
          simp only [hs, ret, if_true, Bool.not_eq_false'] at old ⊢
          exact serves v l old
        | false => simpa [hs, ret] using old
    | _ => simpa only [Part.stallEnded, service] using old

/-! ## The request that is placed -/

/-- A producer write to a stale line arrives, is held and places its touch request (R40). -/
theorem Part.arrive_touchWait {p : Part} {q : Port} {a : Access} {w : Win} {line : Nat} (soft : p.softReset ≠ .draining)
    (cls : p.classify q a.addr a.write = .stall (.touchWait w line)) :
    p.arrive q a =
      ((p.withPort q (.holding { a with phase := .stalled (.touchWait w line) 0 })).touchRequest q w line).settle := by
  unfold Part.arrive
  rw [if_neg soft, Part.classify_takeAccess, cls]
  dsimp only [Part.proceed]
  rw [Part.setAccess_takeAccess, Part.takeAccess_eq]

/-- The part with another touch queue. -/
theorem Part.touchRequest_queues {p : Part} {q : Port} (first : ∀ e ∈ p.copy.queue, e.port ≠ q) (w : Win) (line : Nat) :
    p.touchRequest q w line = (p.setQueue (p.copy.queue ++ [⟨q, w, line, false, false⟩])).touchTake := by
  have none : p.copy.queue.any (fun e => e.port = q) = false := by
    rw [List.any_eq_false]
    intro e he
    simpa using first e he
  rw [Part.touchRequest, none]
  rfl

theorem Part.touchRequest_defers {p : Part} {q : Port} (earlier : ∃ e ∈ p.copy.queue, e.port = q) (w : Win)
    (line : Nat) : p.touchRequest q w line =
      { p with copy := { p.copy with deferred := p.copy.deferred.set q (some (w, line)) } } := by
  have some' : p.copy.queue.any (fun e => e.port = q) = true := by
    rw [List.any_eq_true]
    obtain ⟨e, he, hq⟩ := earlier
    exact ⟨e, he, by simpa using hq⟩
  rw [Part.touchRequest, some']
  rfl

theorem Part.touchTake_busy {p : Part} (h : p.copy.touch.work ≠ .idle) : p.touchTake = p := by
  unfold Part.touchTake
  split
  · exact absurd ‹_› h
  · rfl

/-- The touch copier takes the first entry whose line is not in copy (R87). -/
theorem Part.touchTake_first {p : Part} {before after : List TouchEntry} {e : TouchEntry} {sv : Service}
    (idle : p.copy.touch.work = .idle) (queue : p.copy.queue = before ++ e :: after)
    (skipped : ∀ x ∈ before, x.inService = false → lineIn (p.inCopyLines x.window) x.line = true)
    (waits : e.inService = false) (free : lineIn (p.inCopyLines e.window) e.line = false)
    (others : ∀ x ∈ before ++ after, x.port ≠ e.port) (hs : p.service e.window = some sv) :
    p.touchTake = (p.setQueue (before ++ { e with inService := true } :: after)).setTouchWork
      (.copying e.window (sv.startLine sv.latest sv.back e.line)) := by
  have found : p.copy.queue.find? (fun x => !x.inService && !lineIn (p.inCopyLines x.window) x.line) = some e := by
    rw [queue, List.find?_append]
    have none : before.find? (fun x => !x.inService && !lineIn (p.inCopyLines x.window) x.line) = none := by
      rw [List.find?_eq_none]
      intro x hx
      cases hi : x.inService with
      | true => simp
      | false => simp [skipped x hx hi]
    rw [none]
    simp [waits, free]
  have marked : p.copy.queue.map (fun x => if x.port = e.port then { x with inService := true } else x) =
      before ++ { e with inService := true } :: after := by
    have same : ∀ l : List TouchEntry, (∀ x ∈ l, x.port ≠ e.port) →
        l.map (fun x => if x.port = e.port then { x with inService := true } else x) = l := by
      intro l hl
      calc l.map (fun x => if x.port = e.port then { x with inService := true } else x)
          = l.map id := List.map_congr_left fun x hx => if_neg (hl x hx)
        _ = l := List.map_id l
    rw [queue, List.map_append, List.map_cons, if_pos rfl, same before fun x hx => others x (List.mem_append_left _ hx),
      same after fun x hx => others x (List.mem_append_right _ hx)]
  unfold Part.touchTake
  rw [idle]
  dsimp only
  rw [found]
  dsimp only
  rw [hs, marked]

/-- The touch copier's request is granted first to a free memory port, and changes no choice state (R140, R141). -/
theorem Part.offer_touch {p : Part} {cp : LineCopy} (free : p.arbiter.access = none) (soft : p.softReset ≠ .draining)
    (work : p.copy.touch.work.lineCopy? = some cp) :
    p.offer = { p with arbiter := { p.arbiter with
      access := some (copierAccess .touch cp p.copy.touch.holding p.arbiter.accessTime) } } := by
  have requests : p.touchRequests = true := by rw [Part.touchRequests, work]; rfl
  have chosen : p.choose 3 = (p.grantTouch, []) := by
    unfold Part.choose
    rw [if_pos requests]
  rw [Part.offer_eq, if_pos ⟨free, soft⟩, chosen]
  simp only [List.isEmpty_nil, if_true, Part.grantTouch, work]

/-- Settles O10: the access is held, and its touch request is taken, queued or deferred. -/
theorem touchWaitBegins : Obligations.TouchWaitBegins := by
  unfold Obligations.TouchWaitBegins
  intro q addr rd lanes data s w sv quiet inside noTag live producer notPending line isStale held queued source target
    begun readWord0
  obtain ⟨present, rest, idle⟩ := quiet
  have soft : s.part.softReset ≠ .draining := State.canPresent_soft present
  have hs : s.part.service w = some sv := inside.2.1
  have cls : s.part.classify q addr true = .stall (.touchWait w line) := by
    have stale : lineIn sv.backStale (sv.geometry.lineOf addr) = true := isStale
    rw [Part.classify_logical inside, classifyLogical_producer live producer notPending (Part.noTag_none noTag)]
    simp only [if_true, stale]
    rfl
  have arrives : exec (.accessArrival q addr rd true lanes data) s =
      .next (s.onPart (held.touchRequest q w line).settle) := by
    rw [exec_accessArrival_taken (Bool.or_true rd) present,
      Part.arrive_touchWait (a := arrivingAccess addr true lanes data) soft cls]
    rfl
  have heldRest : held.atRest = true := by
    refine Part.atRest_withPort rest q fun a st n ha hp => ?_
    cases ha
    cases hp
    simp only [Part.stallEnded, hs, live, Bool.false_eq_true, if_false, isStale, Bool.not_true]
  have heldIdle : held.noIdleRequest = true :=
    Part.noIdleRequest_withPort idle fun a m ha => by
      cases ha
      simp
  obtain ⟨-, -, heldQueues⟩ := Part.atRest_iff_queues.mp heldRest
  have more : ∀ b, ∀ e ∈ held.copy.queue, e ∈ (queued b).copy.queue := fun b e he => List.mem_append_left _ he
  refine ⟨fun ⟨touchIdle, notInCopy, first⟩ => ?taken, fun ⟨waits, first⟩ => ?queued, fun earlier => ?deferred⟩
  case taken =>
    have request : held.touchRequest q w line = begun := by
      have queues : held.touchRequest q w line = (queued false).touchTake := Part.touchRequest_queues (p := held) first w line
      rw [queues,
        Part.touchTake_first (p := queued false) (before := s.part.copy.queue) (e := ⟨q, w, line, false, false⟩)
          (after := []) touchIdle rfl (fun e he hi => (heldQueues.touch.resolve_left fun h => h touchIdle) e he hi) rfl
          notInCopy (by simpa only [List.append_nil] using first) hs]
      rfl
    have begunRest : begun.atRest = true := by
      refine Part.atRest_queue heldRest rfl rfl rfl rfl (fun v l h => ?_) (more true)
        (.inl (show TouchWork.copying w ⟨line, source, target, 0, .read⟩ ≠ .idle from nofun)) (fun h => ?_) (fun _ => .inl rfl)
      · rw [Part.lineIn_inCopyLines] at h ⊢
        refine h.imp id fun marked => ?_
        change lineIn (s.part.copy.touch.work.mark v) l = true at marked
        rw [touchIdle] at marked
        simp [TouchWork.mark, lineIn_noLines] at marked
      · have h : s.part.touchDraining = true := h
        simp only [Part.touchDraining, touchIdle] at h
        cases h
    rw [arrives, request]
    refine ⟨fun free => ?_, fun busy => ?_⟩
    · rw [Part.settle_rest begunRest,
        Part.offer_touch (p := begun) (cp := ⟨line, source, target, 0, .read⟩) (Part.memoryFree_iff.mp free).1 soft rfl]
      rfl
    · rw [Part.settle_rest begunRest, Part.offer_busy (p := begun) busy]
  case queued =>
    have rest' : (queued false).atRest = true := by
      refine Part.atRest_queue heldRest rfl rfl rfl rfl (fun _ _ => id) (more false) ?_ id (fun _ => .inl rfl)
      rcases waits with busy | inCopy
      · exact .inl busy
      · refine heldQueues.touch.imp id fun all e he hi => ?_
        rcases List.mem_append.mp he with old | new
        · exact all e old hi
        · rw [List.mem_singleton.mp new]
          exact inCopy
    have request : held.touchRequest q w line = queued false := by
      rw [Part.touchRequest_queues (p := held) first]
      exact Part.touchTake_rest (p := queued false) (Part.atRest_iff.mp rest').1
    rw [arrives, request, Part.settle_idle (p := queued false) rest' heldIdle]
  case deferred =>
    have request := Part.touchRequest_defers (p := held) earlier w line
    rw [arrives, request, Part.settle_idle (p := { held with
      copy := { held.copy with deferred := held.copy.deferred.set q (some (w, line)) } }) ?_ heldIdle]
    refine Part.atRest_queue heldRest rfl rfl rfl rfl (fun _ _ => id) (fun _ => id) heldQueues.touch id fun r => ?_
    by_cases own : r = q
    · subst own
      exact .inr earlier
    · exact .inl (PerPort.get_set_ne _ own _)

end Sys2Proof.Machine
end

section
/-!
Frames of the management link (11_management_link.md R166 to R168): bytes and words, the bits on the wire, the reading
back of a command's frame, and the frames that carry out no command.
-/

namespace Sys2Proof.Machine

/-! ## Words and their bytes (R169) -/

theorem word16_bytes (x : BitVec 16) : word16 (x.extractLsb' 8 8) (x.extractLsb' 0 8) = x := by
  apply BitVec.eq_of_toNat_eq
  have hx := x.isLt
  rw [word16_toNat, BitVec.extractLsb'_toNat, BitVec.extractLsb'_toNat, Nat.shiftRight_eq_div_pow,
    Nat.shiftRight_eq_div_pow]
  omega

theorem word24_toNat (h m l : Byte) : (word24 h m l).toNat = 65536 * h.toNat + 256 * m.toNat + l.toNat := by
  have hm := m.isLt
  have hl := l.isLt
  unfold word24
  rw [BitVec.toNat_append, BitVec.toNat_append, ← Nat.shiftLeft_add_eq_or_of_lt hl, ← Nat.shiftLeft_add_eq_or_of_lt hm,
    Nat.shiftLeft_eq, Nat.shiftLeft_eq]
  omega

theorem word24_bytes (x : BitVec 24) : word24 (x.extractLsb' 16 8) (x.extractLsb' 8 8) (x.extractLsb' 0 8) = x := by
  apply BitVec.eq_of_toNat_eq
  have hx := x.isLt
  rw [word24_toNat, BitVec.extractLsb'_toNat, BitVec.extractLsb'_toNat, BitVec.extractLsb'_toNat,
    Nat.shiftRight_eq_div_pow, Nat.shiftRight_eq_div_pow, Nat.shiftRight_eq_div_pow]
  omega

/-- A byte of a word, by its value. -/
theorem extractByte_eq {n : Nat} (x : BitVec n) (k : Nat) : x.extractLsb' k 8 = BitVec.ofNat 8 (x.toNat / 2 ^ k) := by
  apply BitVec.eq_of_toNat_eq
  rw [BitVec.extractLsb'_toNat, BitVec.toNat_ofNat, Nat.shiftRight_eq_div_pow]

theorem bytes16_word16 (h l : Byte) : bytes16 (word16 h l) = [h, l] := by
  have hh := h.isLt
  have hl := l.isLt
  simp only [bytes16, extractByte_eq, List.cons.injEq, and_true]
  constructor <;> apply BitVec.eq_of_toNat_eq <;> rw [BitVec.toNat_ofNat, word16_toNat] <;> omega

theorem bytes24_word24 (h m l : Byte) : bytes24 (word24 h m l) = [h, m, l] := by
  have hh := h.isLt
  have hm := m.isLt
  have hl := l.isLt
  simp only [bytes24, extractByte_eq, List.cons.injEq, and_true]
  refine ⟨?_, ?_, ?_⟩ <;> apply BitVec.eq_of_toNat_eq <;> rw [BitVec.toNat_ofNat, word24_toNat] <;> omega

/-! ## Bits on the wire (R166) -/

/-- The bits of a byte, the most significant first. -/
def byteBits (b : Byte) : List Bool := (List.range 8).map (fun i => b.getLsbD (7 - i))

/-- The first of eight received bits is the most significant of the byte. -/
theorem byteOfBits_getLsbD (a b c d e f g h : Bool) : ∀ i : Fin 8,
    [a, b, c, d, e, f, g, h][i] = (byteOfBits [a, b, c, d, e, f, g, h]).getLsbD (7 - i) := by
  revert a b c d e f g h
  decide

theorem byteOfBits_getElem? {l : List Bool} (length : l.length = 8) {i : Nat} (hi : i < 8) :
    l[i]? = some ((byteOfBits l).getLsbD (7 - i)) := by
  match l, length with
  | [a, b, c, d, e, f, g, h], _ =>
    rw [List.getElem?_eq_getElem hi]
    exact congrArg some (byteOfBits_getLsbD a b c d e f g h ⟨i, hi⟩)

theorem byteOfBits_byteBits (b : Byte) : byteOfBits (byteBits b) = b := by
  apply BitVec.eq_of_getLsbD_eq
  intro j hj
  have bit := byteOfBits_getElem? (l := byteBits b) (by simp [byteBits]) (i := 7 - j) (by omega)
  have back : 7 - (7 - j) = j := by omega
  rw [byteBits, List.getElem?_map, List.getElem?_range (by omega), Option.map_some, back, Option.some.injEq] at bit
  exact bit.symm

/-- A bit short of the eighth joins the byte in progress. -/
theorem Frame.sample_short {f : Frame} (short : f.bits.length < 7) (b : Bool) :
    f.sample b = { f with bits := f.bits ++ [b] } := by
  have : ¬ (f.bits ++ [b]).length = 8 := by
    rw [List.length_append]
    simp only [List.length_cons, List.length_nil]
    omega
  rw [Frame.sample]
  exact if_neg this

/-- The eighth bit makes a whole byte. -/
theorem Frame.sample_eighth {f : Frame} (seven : f.bits.length = 7) (b : Bool) :
    f.sample b = { f with bytes := f.bytes ++ [byteOfBits (f.bits ++ [b])], bits := [] } := by
  have : (f.bits ++ [b]).length = 8 := by simp [seven]
  rw [Frame.sample]
  exact if_pos this

/-- Up to seven bits wait for the eighth. -/
theorem Frame.foldl_sample_short (l : List Bool) (f : Frame) (short : f.bits.length + l.length ≤ 7) :
    l.foldl Frame.sample f = { f with bits := f.bits ++ l } := by
  induction l generalizing f with
  | nil => simp
  | cons b rest ih =>
    rw [List.length_cons] at short
    rw [List.foldl_cons, Frame.sample_short (by omega), ih _ (by simp; omega)]
    simp

/-- A byte's eight bits are received as that byte. -/
theorem Frame.foldl_sample_byte {f : Frame} (fresh : f.bits = []) (b : Byte) :
    (byteBits b).foldl Frame.sample f = { f with bytes := f.bytes ++ [b] } := by
  have split : byteBits b = (byteBits b).take 7 ++ [b.getLsbD 0] := rfl
  have seven : ((byteBits b).take 7).length = 7 := rfl
  have first := Frame.foldl_sample_short ((byteBits b).take 7) f (by rw [fresh, seven]; decide)
  rw [split, List.foldl_append, first, List.foldl_cons, List.foldl_nil, fresh, List.nil_append,
    Frame.sample_eighth (f := { f with bits := (byteBits b).take 7 }) seven]
  dsimp only
  rw [← split, byteOfBits_byteBits]

theorem Frame.foldl_sample_bytes (l : List Byte) {f : Frame} (fresh : f.bits = []) :
    (l.flatMap byteBits).foldl Frame.sample f = { f with bytes := f.bytes ++ l } := by
  induction l generalizing f with
  | nil => simp
  | cons b rest ih =>
    rw [List.flatMap_cons, List.foldl_append, Frame.foldl_sample_byte fresh, ih (f := { f with bytes := f.bytes ++ [b] }) fresh]
    simp

/-! ## Commands and their bytes -/

theorem parseImage_imageBytes (i : DescriptorImage) : parseImage (imageBytes i) = some i := by
  have parts : parseImage (imageBytes i) = some
      { flags := i.flags
        logicalBase := word24 (i.logicalBase.extractLsb' 16 8) (i.logicalBase.extractLsb' 8 8) (i.logicalBase.extractLsb' 0 8)
        length := i.length
        bank1Base := word24 (i.bank1Base.extractLsb' 16 8) (i.bank1Base.extractLsb' 8 8) (i.bank1Base.extractLsb' 0 8)
        bank2Base := word24 (i.bank2Base.extractLsb' 16 8) (i.bank2Base.extractLsb' 8 8) (i.bank2Base.extractLsb' 0 8)
        pinLimit := i.pinLimit
        writeMask := word16 (i.writeMask.extractLsb' 8 8) (i.writeMask.extractLsb' 0 8) } := rfl
  rw [parts, word24_bytes, word24_bytes, word24_bytes, word16_bytes]

/-- The bytes of a command read back as that command (R168). -/
theorem parseFrame_frameBytes (c : LinkCommand) : parseFrame (frameBytes c) = some c := by
  cases c with
  | setWindow w i =>
    have step : parseFrame (frameBytes (.setWindow w i)) =
        (parseImage (imageBytes i)).map (fun i => LinkCommand.setWindow w i) := rfl
    rw [step, parseImage_imageBytes, Option.map_some]
  | setTiming source prescaler guardTicks =>
    have step : parseFrame (frameBytes (.setTiming source prescaler guardTicks)) =
        some (.setTiming source (word16 (prescaler.extractLsb' 8 8) (prescaler.extractLsb' 0 8)) guardTicks) := rfl
    rw [step, word16_bytes]
  | setPeriod period =>
    have step : parseFrame (frameBytes (.setPeriod period)) =
        some (.setPeriod (word16 (period.extractLsb' 8 8) (period.extractLsb' 0 8))) := rfl
    rw [step, word16_bytes]
  | setNoticeMasks port kinds windows routing =>
    have step : parseFrame (frameBytes (.setNoticeMasks port kinds windows routing)) =
        some (.setNoticeMasks port kinds (word16 (windows.extractLsb' 8 8) (windows.extractLsb' 0 8)) routing) := rfl
    rw [step, word16_bytes]
  | _ => rfl

theorem imageBytes_of_parseImage {l : List Byte} {i : DescriptorImage} (h : parseImage l = some i) : imageBytes i = l := by
  unfold parseImage at h
  split at h
  case h_2 => cases h
  case h_1 =>
    cases h
    simp only [imageBytes, bytes24_word24, bytes16_word16]
    rfl

/-- The command bytes of the command table (11_management_link.md, Commands). -/
def commandCodes : List Nat :=
  [0x00, 0x01, 0x10, 0x11, 0x12, 0x13, 0x14, 0x15, 0x20, 0x21, 0x2F, 0x30, 0x31, 0x32, 0x33, 0x34, 0x40, 0x41, 0x42,
    0x50, 0x51, 0x52]

/-- A byte that is not in the command table reads as no command (R168). -/
theorem parseCommand_unknown {code : Nat} (h : code ∉ commandCodes) (args : List Byte) : parseCommand code args = none := by
  rcases Nat.lt_or_ge code 0x53 with low | high
  · interval_cases code
    all_goals first | rfl | exact absurd (by decide) h
  · obtain ⟨n, rfl⟩ := Nat.exists_eq_add_of_le' high
    rfl

/-- A command read from a command byte and its arguments has those bytes, but for a longer NOP (log entry 28). -/
theorem frameBytes_of_parseCommand {code : Nat} {args : List Byte} {c : LinkCommand} (h : parseCommand code args = some c) :
    frameBytes c = BitVec.ofNat 8 code :: args ∨ c = .nop ∧ code = 0 ∧ ∀ b ∈ args, b = 0x00#8 := by
  have known : code ∈ commandCodes := by
    by_contra unknown
    rw [parseCommand_unknown unknown] at h
    cases h
  simp only [commandCodes, List.mem_cons, List.not_mem_nil, or_false] at known
  by_cases nop : code = 0x00
  · right
    subst nop
    have read : parseNop args = some c := h
    unfold parseNop at read
    split at read
    case isFalse => cases read
    case isTrue zeros =>
      cases read
      simpa using zeros
  by_cases window : code = 0x10
  · left
    subst window
    match args with
    | [] => cases h
    | w :: image =>
      obtain ⟨i, hi, hc⟩ := Option.map_eq_some_iff.mp (show (parseImage image).map _ = some c from h)
      subst hc
      rw [← imageBytes_of_parseImage hi]
      rfl
  -- the others, by their code; a count of arguments that is not the command's reads as none
  left
  simp only [nop, window, false_or] at known
  rcases known with rfl | rfl | rfl | rfl | rfl | rfl | rfl | rfl | rfl | rfl | rfl | rfl | rfl | rfl | rfl | rfl | rfl |
    rfl | rfl | rfl
  all_goals rcases args with _ | ⟨a, _ | ⟨b, _ | ⟨d, _ | ⟨e, _ | ⟨f, _ | ⟨g, l⟩⟩⟩⟩⟩⟩
  all_goals cases h
  all_goals simp only [frameBytes, bytes16_word16, List.cons_append, List.nil_append]

/-- Settles O38: a byte's bits make that byte, a frame's bytes read back as its command, and a command read is its bytes. -/
theorem linkFramesRoundTrip : Obligations.LinkFramesRoundTrip := by
  unfold Obligations.LinkFramesRoundTrip
  refine ⟨fun c reply => ?_, fun bytes bits c judged => ?_⟩
  · intro bits f
    have received : f = { Frame.start reply with bytes := [] ++ frameBytes c } :=
      Frame.foldl_sample_bytes (frameBytes c) rfl
    rw [received]
    exact ⟨rfl, rfl, judgeFrame_of_parse (parseFrame_frameBytes c)⟩
  · match bytes with
    | [] => cases judged
    | code :: args =>
      unfold judgeFrame at judged
      dsimp only at judged
      split at judged
      case isTrue => cases judged
      case isFalse whole =>
        refine ⟨not_not.mp whole, ?_⟩
        split at judged
        case h_2 => cases judged
        case h_1 c' parses =>
          cases judged
          have self : BitVec.ofNat 8 code.toNat = code := by simp
          rcases frameBytes_of_parseCommand (code := code.toNat) parses with same | ⟨rfl, zero, zeros⟩
          · left
            rw [same, self]
          · right
            refine ⟨rfl, List.cons_ne_nil _ _, ?_⟩
            rw [← self, zero]
            simpa using zeros

/-! ## Frames that carry out no command -/

/-- Settles O39: the edges work on the frame alone, and the frames that are none of a command's end without one. -/
theorem framesOnTheWireAndUntakenFrames : Obligations.FramesOnTheWireAndUntakenFrames := by
  unfold Obligations.FramesOnTheWireAndUntakenFrames
  intro s f sdi with'
  refine ⟨fun high => ?start, fun held => ?heldEdges, fun ⟨notHeld, shifting⟩ => ?edges, fun takes => ?ends, fun untaken v => ?untaken⟩
  case start =>
    simp only [exec, execFrameStart, high]
    rfl
  case heldEdges => simp only [exec, execSckEdge, held, if_true, and_self]
  case edges =>
    have edge : ∀ e, exec (.sckEdge e) s = .next (with' (.shifting (f.edge e))) := fun e => by
      simp only [exec, execSckEdge, notHeld, Bool.false_eq_true, if_false, shifting]
      rfl
    refine ⟨?_, edge .falling, fun short => ?_, fun seven => ⟨byteOfBits (f.bits ++ [sdi]), ?_, fun i hi => ?_⟩⟩
    · simp only [State.sdo, notHeld, Bool.false_eq_true, if_false, shifting, Frame.outBit]
    · rw [edge, Frame.edge, Frame.sample_short short]
    · rw [edge, Frame.edge, Frame.sample_eighth seven]
    · exact byteOfBits_getElem? (by simp [seven]) hi
  case ends =>
    have whole : s.link.frame = .idle → ∀ v, s.verdict v = v := fun idle v => by
      simp only [State.verdict, takes, if_true, idle]
    have held : s.link.frame = .shifting f → ∀ v, s.verdict v = judgeFrame f.bytes f.bits := fun shifting v => by
      simp only [State.verdict, takes, if_true, shifting]
    refine ⟨fun empty => ?_, fun malformed => ?_, fun gives => ?_⟩
    · have ignored : s.verdict .ignored = .ignored := by
        rcases empty with idle | ⟨shifting, none⟩
        · exact whole idle _
        · rw [held shifting, none, judgeFrame]
      simp only [exec, execEmptyFrame, State.frameEnd, ignored]
      rfl
    · have judged : s.verdict .malformed = .malformed := by
        rcases malformed with idle | ⟨shifting, some', bad⟩
        · exact whole idle _
        · rw [held shifting]
          obtain ⟨b, rest, hb⟩ := List.exists_cons_of_ne_nil some'
          rw [hb] at bad ⊢
          rcases bad with bitsOver | unread
          · simp only [judgeFrame, bitsOver, ne_eq, not_false_eq_true, if_true]
          · simp only [judgeFrame, unread, ite_self]
      simp only [exec, execFrameError, State.frameEnd, judged]
      rfl
    · simp only [exec, execNop]
      rw [State.frameEnd_of_frameGives rfl gives]
      rfl
  case untaken =>
    have ignored : s.verdict v = .ignored := by
      unfold State.verdict
      rcases untaken with refuses | discarded
      · simp only [refuses, Bool.false_eq_true, if_false]
      · simp only [discarded, ite_self]
    simp only [State.frameEnd, ignored]
    rfl

end Sys2Proof.Machine
end

section
/-!
Management commands on the notices, the channels' masks, the limits and the timer (11_management_link.md; R91, R111,
R112, R122, R137, R153, R155), and what the interrupt line says (R152).
-/

namespace Sys2Proof.Machine

/-! ## A command that is taken -/

theorem State.frameEnd_given {s : State} {c : LinkCommand} (gives : s.frameGives c = true) :
    s.frameEnd (.taken c) = s.frameEnded.takeCommand c :=
  State.frameEnd_of_frameGives (parseFrame_frameBytes c) gives

/-- A command that only changes the part, at its frame end: the part so changed, and the reply OK. -/
theorem State.carryOut_frameEnded (s : State) (f : Part → Part) :
    s.frameEnded.carryOut f = s.replied (f s.part) [0x01#8] := rfl

theorem exec_setNoticeMasks_given {s : State} {port kinds : Byte} {windows : Word} {routing : Byte}
    (gives : s.frameGives (.setNoticeMasks port kinds windows routing) = true) :
    exec (.setNoticeMasks port kinds windows routing) s =
      .next (s.frameEnded.takeSetNoticeMasks port kinds windows routing) :=
  congrArg Host.Outcome.next (State.frameEnd_given gives)

theorem exec_readGlobal_given {s : State} {port : Byte} (gives : s.frameGives (.readGlobal port) = true) :
    exec (.readGlobal port) s = .next (s.frameEnded.takeReadGlobal port) :=
  congrArg Host.Outcome.next (State.frameEnd_given gives)

theorem exec_setChannels_given {s : State} {masks : Byte} (gives : s.frameGives (.setChannels masks) = true) :
    exec (.setChannels masks) s = .next (s.frameEnded.takeSetChannels masks) :=
  congrArg Host.Outcome.next (State.frameEnd_given gives)

theorem exec_setLimits_given {s : State} {runLimit stallLimit accessTime : Byte}
    (gives : s.frameGives (.setLimits runLimit stallLimit accessTime) = true) :
    exec (.setLimits runLimit stallLimit accessTime) s =
      .next (s.frameEnded.takeSetLimits runLimit stallLimit accessTime) :=
  congrArg Host.Outcome.next (State.frameEnd_given gives)

theorem exec_setTiming_given {s : State} {source : Byte} {prescaler : Word} {guardTicks : Byte}
    (gives : s.frameGives (.setTiming source prescaler guardTicks) = true) :
    exec (.setTiming source prescaler guardTicks) s = .next (s.frameEnded.takeSetTiming source prescaler guardTicks) :=
  congrArg Host.Outcome.next (State.frameEnd_given gives)

theorem exec_setPeriod_given {s : State} {period : Word} (gives : s.frameGives (.setPeriod period) = true) :
    exec (.setPeriod period) s = .next (s.frameEnded.takeSetPeriod period) :=
  congrArg Host.Outcome.next (State.frameEnd_given gives)

theorem exec_latchTimer_given {s : State} (gives : s.frameGives .latchTimer = true) :
    exec .latchTimer s = .next s.frameEnded.takeLatchTimer :=
  congrArg Host.Outcome.next (State.frameEnd_given gives)

theorem exec_readTimer_given {s : State} (gives : s.frameGives .readTimer = true) :
    exec .readTimer s = .next s.frameEnded.takeReadTimer :=
  congrArg Host.Outcome.next (State.frameEnd_given gives)

/-- A port's code. -/
theorem portArg_of_code {port : Byte} {q : Port} (code : port = (match q with | .a => 0x00#8 | .b => 0x01#8)) :
    portArg port = some q := by
  subst code
  cases q <;> rfl

/-! ## Notices -/

theorem State.takeSetNoticeMasks_badArg {s : State} {port kinds : Byte} {windows : Word} {routing : Byte}
    (bad : 1 < port.toNat ∨ 63 < routing.toNat) :
    s.takeSetNoticeMasks port kinds windows routing = s.result .badArg := by
  unfold State.takeSetNoticeMasks
  rcases bad with noPort | wide
  · rw [portArg_none noPort]
  · split
    · rfl
    · exact if_pos wide

theorem Notice.exists_bit {k : Nat} (h : k < 8) : ∃ n : Notice, n.bit = k := by
  interval_cases k
  exacts [⟨.imageReady, rfl⟩, ⟨.dropped, rfl⟩, ⟨.pinExpired, rfl⟩, ⟨.backReady, rfl⟩, ⟨.overrun, rfl⟩,
    ⟨.violation, rfl⟩, ⟨.stallTimeout, rfl⟩, ⟨.retired, rfl⟩]

theorem GlobalNotice.exists_bit {k : Nat} (h : k < 6) : ∃ n : GlobalNotice, n.bit = k := by
  interval_cases k
  exacts [⟨.boundary, rfl⟩, ⟨.syncLost, rfl⟩, ⟨.syncRestored, rfl⟩, ⟨.configApplied, rfl⟩, ⟨.configRejected, rfl⟩,
    ⟨.standbyReached, rfl⟩]

theorem and_ne_zero_iff {n : Nat} {x m : BitVec n} :
    x &&& m ≠ 0#n ↔ ∃ k, x.getLsbD k = true ∧ m.getLsbD k = true := by
  simp only [ne_eq, BitVec.zero_iff_eq_false, BitVec.getLsbD_and, not_forall, Bool.not_eq_false, Bool.and_eq_true]

/-- A port's interrupt line: an unmasked pending window notice, or a routed pending global one (R152). -/
theorem NoticeUnit.line_iff {n : NoticeUnit} : n.line = true ↔
    (∃ (w : Win) (k : Notice), NoticeSet.has n.window[w] k = true ∧ n.kindMask.getLsbD k.bit = false ∧
      n.windowMask.getLsbD w.val = false) ∨
    (∃ k : GlobalNotice, GlobalSet.has n.global k = true ∧ n.routing.getLsbD k.bit = true) := by
  rw [NoticeUnit.line, Bool.or_eq_true, List.any_eq_true, decide_eq_true_eq, and_ne_zero_iff]
  refine or_congr ⟨?_, ?_⟩ ⟨?_, ?_⟩
  · rintro ⟨w, -, holds⟩
    obtain ⟨unmasked, k, pending, kind⟩ := NoticeUnit.holdsLine_iff.mp holds
    obtain ⟨notice, rfl⟩ := Notice.exists_bit (BitVec.lt_of_getLsbD pending)
    exact ⟨w, notice, pending, kind, unmasked⟩
  · rintro ⟨w, k, pending, kind, unmasked⟩
    exact ⟨w, mem_allWindows w, NoticeUnit.holdsLine_iff.mpr ⟨unmasked, k.bit, pending, kind⟩⟩
  · rintro ⟨k, pending, routed⟩
    obtain ⟨notice, rfl⟩ := GlobalNotice.exists_bit (BitVec.lt_of_getLsbD pending)
    exact ⟨notice, pending, routed⟩
  · rintro ⟨k, pending, routed⟩
    exact ⟨k.bit, pending, routed⟩

/-- Settles O50: the two commands in each outcome, and the interrupt line from the sets and the masks. -/
theorem noticeMasksGlobalsAndInterruptLine : Obligations.NoticeMasksGlobalsAndInterruptLine := by
  unfold Obligations.NoticeMasksGlobalsAndInterruptLine
  refine ⟨fun s port kinds windows routing => ?_, fun p q => NoticeUnit.line_iff⟩
  intro masks notices
  refine ⟨fun gives => ⟨fun bad => ?_, fun q ⟨narrow, code⟩ => ?_⟩, fun gives => ⟨fun noPort => ?_, fun q code => ?_⟩⟩
  · change exec (.setNoticeMasks port kinds windows routing) s = _
    rw [exec_setNoticeMasks_given gives, State.takeSetNoticeMasks_badArg bad]
    rfl
  · change exec (.setNoticeMasks port kinds windows routing) s = _
    have fits : ¬ 64 ≤ routing.toNat := by omega
    have same : routing.setWidth 6 = routing.extractLsb' 0 6 := by
      apply BitVec.eq_of_toNat_eq
      simp
    rw [exec_setNoticeMasks_given gives]
    simp only [State.takeSetNoticeMasks, portArg_of_code code, fits, if_false, State.carryOut, Part.setNoticeMasks, same]
    rfl
  · rw [exec_readGlobal_given gives]
    simp only [State.takeReadGlobal, portArg_none noPort]
    rfl
  · have same : ∀ g : GlobalSet, g.setWidth 8 = BitVec.ofNat 8 g.toNat := fun g => by
      apply BitVec.eq_of_toNat_eq
      simp
    rw [exec_readGlobal_given gives]
    simp only [State.takeReadGlobal, portArg_of_code code, same]
    rfl

/-! ## Masks and limits -/

theorem Part.channel_setMasks (p : Part) (masks : Byte) (c : Chan) :
    (p.setMasks masks).channel c = { p.channel c with masked := masks.getLsbD c.val } := by
  simp only [Part.channel, Part.setMasks, Fin.getElem_fin, Vector.getElem_ofFn]

theorem Part.inCopyLines_setMasks (p : Part) (masks : Byte) (w : Win) :
    (p.setMasks masks).inCopyLines w = p.inCopyLines w := by
  simp only [Part.inCopyLines, Part.channelMarks, Part.channel_setMasks]
  rfl

theorem Part.QueuesHold.setMasks {p : Part} (h : p.QueuesHold) (masks : Byte) : (p.setMasks masks).QueuesHold where
  touch := by
    simp only [Part.inCopyLines_setMasks]
    exact h.touch
  deferred := h.deferred
  stalls q := Part.stallHolds_iff.mpr fun a st n ha hp => by
    rw [Part.stallEnded_congr (p := p) (q := p.setMasks masks) rfl (fun _ => rfl)]
    exact Part.stallHolds_iff.mp (h.stalls q) a st n ha hp

/-- A channel whose new mask does not reach it while it serves without a line holds as it did. -/
theorem Part.channelHolds_setMasks {p : Part} {masks : Byte} {c : Chan} (h : p.channelHolds c = true)
    (unmasked : ∀ w job, (p.channel c).work = .serving w job none → masks.getLsbD c.val = false) :
    (p.setMasks masks).channelHolds c = true := by
  refine Part.channelHolds_iff.mpr fun w job serves => ?_
  rw [Part.channel_setMasks] at serves ⊢
  obtain ⟨-, within⟩ := Part.channelHolds_iff.mp h w job serves
  refine ⟨unmasked w job serves, fun sv hs l hl => ?_⟩
  rw [Part.inCopyLines_setMasks]
  exact within sv hs l hl

theorem Part.noIdleRequest_setMasks {p : Part} (h : p.noIdleRequest = true) (masks : Byte) :
    (p.setMasks masks).noIdleRequest = true := by
  have same : (p.setMasks masks).noIdleRequest = p.noIdleRequest := by
    simp only [Part.noIdleRequest, Part.portContended, Part.channel_setMasks]
    rfl
  rw [same]
  exact h

theorem limitsOk_iff {runLimit accessTime : Byte} : limitsOk runLimit accessTime = true ↔
    1 ≤ runLimit.toNat ∧ runLimit.toNat ≤ 15 ∧ 2 ≤ accessTime.toNat ∧ accessTime.toNat ≤ 15 := by
  simp only [limitsOk, Bool.and_eq_true, decide_eq_true_eq, and_assoc]

/-- The masks as SET_CHANNELS takes them. -/
theorem State.takeSetChannels_masks {s : State} {masks : Byte} (fits : masks.toNat ≤ 15) :
    s.takeSetChannels masks = s.carryOut (fun p => (p.setMasks masks).settle) := by
  have : ¬ 16 ≤ masks.toNat := by omega
  rw [State.takeSetChannels, if_neg this]

theorem exec_setChannels_masks {s : State} {masks : Byte} (gives : s.frameGives (.setChannels masks) = true)
    (fits : masks.toNat ≤ 15) :
    exec (.setChannels masks) s = .next (s.replied (s.part.setMasks masks).settle [0x01#8]) := by
  rw [exec_setChannels_given gives, State.takeSetChannels_masks fits, State.carryOut_frameEnded]

/-- Settles O48: every channel gets its mask, which begins no work where no window waits or is given back; the limits are
written together or not at all. -/
theorem channelMasksAndLimits : Obligations.ChannelMasksAndLimits := by
  unfold Obligations.ChannelMasksAndLimits
  intro s masks runLimit stallLimit accessTime
  refine ⟨fun gives => ⟨fun wide => ?_, fun fits => ?_, fun ⟨fits, rest, idle, empty, unmasked⟩ => ?_⟩,
    fun gives => ⟨fun bad => ?_, fun good => ?_⟩⟩
  · have : 16 ≤ masks.toNat := wide
    rw [exec_setChannels_given gives, State.takeSetChannels, if_pos this]
    rfl
  · have moves := Part.moves_settle (en := true) (s.part.setMasks masks)
    refine ⟨_, exec_setChannels_masks gives fits, moves.live, moves.staging, fun c => ?_⟩
    rw [moves.masks, Part.channel_setMasks]
  · obtain ⟨holds, -, queues⟩ := Part.atRest_iff_queues.mp rest
    have rest' : (s.part.setMasks masks).atRest = true :=
      Part.atRest_iff_queues.mpr ⟨fun c => Part.channelHolds_setMasks (holds c) (unmasked c), .inr empty, queues.setMasks _⟩
    refine ⟨(s.part.setMasks masks).copy.channels, ?_, fun c => Part.channel_setMasks s.part masks c⟩
    rw [exec_setChannels_masks gives fits, Part.settle_idle rest' (Part.noIdleRequest_setMasks idle masks)]
    rfl
  · rw [exec_setLimits_given gives, State.takeSetLimits, if_neg (limitsOk_iff.not.mpr bad)]
    rfl
  · rw [exec_setLimits_given gives, State.takeSetLimits, if_pos (limitsOk_iff.mpr good)]
    rfl

/-! ## The timer -/

theorem byte_eq_of_toNat {b : Byte} {n : Nat} (h : b.toNat = n) : b = BitVec.ofNat 8 n := by
  subst h
  simp

theorem sourceArg_none {b : Byte} (h : 2 < b.toNat) : sourceArg b = none := by
  have ne : ∀ n, n ≤ 2 → b ≠ BitVec.ofNat 8 n := by
    rintro n hn rfl
    rw [BitVec.toNat_ofNat, Nat.mod_eq_of_lt (by omega)] at h
    omega
  rw [sourceArg, if_neg (ne 0 (by omega)), if_neg (ne 1 (by omega)), if_neg (ne 2 (by omega))]

theorem sourceArg_some {b : Byte} (h : b.toNat ≤ 2) : sourceArg b =
    some (if b.toNat = 0 then .internal else if b.toNat = 1 then .external else .command) := by
  have cases' : b.toNat = 0 ∨ b.toNat = 1 ∨ b.toNat = 2 := by omega
  rcases cases' with e | e | e <;> rw [byte_eq_of_toNat e] <;> rfl

theorem timingOk_iff {prescaler : Word} {guardTicks : Byte} : timingOk prescaler guardTicks = true ↔
    1 ≤ prescaler.toNat ∧ prescaler.toNat ≤ 4096 ∧ 1 ≤ guardTicks.toNat := by
  simp only [timingOk, Bool.and_eq_true, decide_eq_true_eq, and_assoc]

/-- SET_TIMING within the ranges, by the operating state (R112). -/
theorem State.takeSetTiming_ranges {s : State} {source : Byte} {prescaler : Word} {guardTicks : Byte}
    (code : source.toNat ≤ 2) (ranges : timingOk prescaler guardTicks = true) :
    s.takeSetTiming source prescaler guardTicks =
      if s.part.opState = .standby then
        s.carryOut fun p => p.setTiming
          (if source.toNat = 0 then .internal else if source.toNat = 1 then .external else .command) prescaler guardTicks
      else if s.part.opState = .run then s.result .refused else s.result .busy := by
  simp only [State.takeSetTiming, sourceArg_some code, ranges, Bool.not_true, Bool.false_eq_true, if_false]
  cases s.part.opState <;> simp

theorem byteBit_pair (a b : Bool) : byteBit a 0 ||| byteBit b 1 = BitVec.ofNat 8 (a.toNat + 2 * b.toNat) := by
  cases a <;> cases b <;> rfl

theorem bytes16_ofNat (n : Nat) : bytes16 (BitVec.ofNat 16 n) = [BitVec.ofNat 8 (n / 256), BitVec.ofNat 8 n] := by
  simp only [bytes16, extractByte_eq, List.cons.injEq, and_true, BitVec.toNat_ofNat]
  constructor <;> apply BitVec.eq_of_toNat_eq <;> rw [BitVec.toNat_ofNat, BitVec.toNat_ofNat] <;> omega

theorem bytes24_ofNat (n : Nat) : bytes24 (BitVec.ofNat 24 n) =
    [BitVec.ofNat 8 (n / 65536), BitVec.ofNat 8 (n / 256), BitVec.ofNat 8 n] := by
  simp only [bytes24, extractByte_eq, List.cons.injEq, and_true, BitVec.toNat_ofNat]
  refine ⟨?_, ?_, ?_⟩ <;> apply BitVec.eq_of_toNat_eq <;> rw [BitVec.toNat_ofNat, BitVec.toNat_ofNat] <;> omega

/-- Settles O46: each command of the timer in each of its outcomes. -/
theorem timerCommands : Obligations.TimerCommands := by
  unfold Obligations.TimerCommands
  intro s source prescaler guardTicks period t timer ranges set
  refine ⟨fun gives => ?timing, fun gives => ?period, fun gives => ?latch, fun gives => ?read⟩
  case timing =>
    have taken : set = .next (s.frameEnded.takeSetTiming source prescaler guardTicks) := exec_setTiming_given gives
    have within : ranges → set = .next
        (if s.part.opState = .standby then
          s.frameEnded.carryOut fun p => p.setTiming
            (if source.toNat = 0 then .internal else if source.toNat = 1 then .external else .command) prescaler guardTicks
        else if s.part.opState = .run then s.frameEnded.result .refused else s.frameEnded.result .busy) := fun h => by
      rw [taken, State.takeSetTiming_ranges h.1 (timingOk_iff.mpr h.2)]
      rfl
    refine ⟨fun outside => ?_, fun ⟨inside, state⟩ => ?_, fun ⟨inside, state⟩ => ?_, fun ⟨inside, state⟩ => ?_⟩
    · have badArg : s.frameEnded.takeSetTiming source prescaler guardTicks = s.frameEnded.result .badArg := by
        unfold State.takeSetTiming
        rcases Nat.lt_or_ge 2 source.toNat with noSource | code
        · rw [sourceArg_none noSource]
        · have : timingOk prescaler guardTicks = false :=
            Bool.eq_false_iff.mpr fun h => outside ⟨code, timingOk_iff.mp h⟩
          rw [sourceArg_some code]
          simp only [this, Bool.not_false, if_true]
      rw [taken, badArg]
      rfl
    all_goals rw [within inside, state]; rfl
  case period =>
    refine ⟨fun short => ?_, fun ⟨long, standby⟩ => ?_, fun ⟨long, working⟩ => ?_⟩
    · rw [exec_setPeriod_given gives, State.takeSetPeriod, if_pos short]
      rfl
    · rw [exec_setPeriod_given gives, State.takeSetPeriod, if_neg (by omega)]
      change Host.Outcome.next (s.replied (s.part.setPeriod period.toNat) [0x01#8]) = _
      rw [Part.setPeriod, if_pos standby]
    · rw [exec_setPeriod_given gives, State.takeSetPeriod, if_neg (by omega)]
      change Host.Outcome.next (s.replied (s.part.setPeriod period.toNat) [0x01#8]) = _
      rw [Part.setPeriod, if_neg working]
  case latch =>
    refine ⟨fun latched => ?_, fun notLatched => ?_⟩
    · have same : s.part.timer.latch = s.part.timer := if_pos latched
      rw [exec_latchTimer_given gives]
      simp only [State.takeLatchTimer, State.carryOut]
      change Host.Outcome.next (s.replied { s.part with timer := s.part.timer.latch } _) = _
      rw [same]
      rfl
    · have latch : s.part.timer.latch = { t with latched := true, latchCount := t.count, latchBoundaries := t.boundaries } :=
        if_neg (by simpa using notLatched)
      rw [exec_latchTimer_given gives]
      simp only [State.takeLatchTimer, State.carryOut]
      change Host.Outcome.next (s.replied { s.part with timer := s.part.timer.latch } _) = _
      rw [latch]
      rfl
  case read =>
    intro count boundaries pair
    have reply : timerReply t =
        [BitVec.ofNat 8 (t.latched.toNat + 2 * (decide (t.sync = .flywheel)).toNat), t.source.code] ++
        [BitVec.ofNat 8 (count / 65536), BitVec.ofNat 8 (count / 256), BitVec.ofNat 8 count] ++ bytes32 boundaries ++
        pair t.period ++ pair (t.pending.getD 0) := by
      simp only [timerReply, byteBit_pair, bytes24_ofNat, bytes16_ofNat]
      rfl
    rw [exec_readTimer_given gives]
    change Host.Outcome.next (s.replied (timer { t with latched := false }) (0x01#8 :: timerReply t)) = _
    rw [reply]
    cases t.source <;> rfl

end Sys2Proof.Machine
end

section
/-!
The management replies that read, byte by byte (11_management_link.md R170 to R174), and SET_WINDOW with its field checks
and the geometry lock (R124, R125).
-/

namespace Sys2Proof.Machine

/-! ## Arguments -/

theorem windowArg_none {b : Byte} (h : 15 < b.toNat) : windowArg b = none := dif_neg (by omega)

theorem windowArg_some {b : Byte} {w : Win} (h : w.val = b.toNat) : windowArg b = some w := by
  have lt : b.toNat < 16 := h ▸ w.isLt
  rw [windowArg, dif_pos lt]
  exact congrArg some (Fin.ext h.symm)

theorem channelArg_none {b : Byte} (h : 3 < b.toNat) : channelArg b = none := dif_neg (by omega)

theorem channelArg_some {b : Byte} {c : Chan} (h : c.val = b.toNat) : channelArg b = some c := by
  have lt : b.toNat < 4 := h ▸ c.isLt
  rw [channelArg, dif_pos lt]
  exact congrArg some (Fin.ext h.symm)

theorem exec_getStatus_given {s : State} (gives : s.frameGives .getStatus = true) :
    exec .getStatus s = .next (s.replied s.part (0x01#8 :: statusReply s.part)) :=
  congrArg Host.Outcome.next (State.frameEnd_given gives)

theorem exec_getChannel_given {s : State} {channel : Byte} (gives : s.frameGives (.getChannel channel) = true) :
    exec (.getChannel channel) s = .next (s.frameEnded.takeGetChannel channel) :=
  congrArg Host.Outcome.next (State.frameEnd_given gives)

theorem exec_getWindow_given {s : State} {window selection : Byte}
    (gives : s.frameGives (.getWindow window selection) = true) :
    exec (.getWindow window selection) s = .next (s.frameEnded.takeGetWindow window selection) :=
  congrArg Host.Outcome.next (State.frameEnd_given gives)

theorem exec_getWindowState_given {s : State} {window : Byte} (gives : s.frameGives (.getWindowState window) = true) :
    exec (.getWindowState window) s = .next (s.frameEnded.takeGetWindowState window) :=
  congrArg Host.Outcome.next (State.frameEnd_given gives)

theorem exec_setWindow_given {s : State} {window : Byte} {image : DescriptorImage}
    (gives : s.frameGives (.setWindow window image) = true) :
    exec (.setWindow window image) s = .next (s.frameEnded.takeSetWindow window image) :=
  congrArg Host.Outcome.next (State.frameEnd_given gives)

/-! ## Flag bytes -/

theorem byteBit_quad (a b c d : Bool) : byteBit a 0 ||| byteBit b 1 ||| byteBit c 2 ||| byteBit d 3 =
    BitVec.ofNat 8 (a.toNat + 2 * b.toNat + 4 * c.toNat + 8 * d.toNat) := by
  revert a b c d
  decide

theorem byteBit_five (a b c d e : Bool) : byteBit a 0 ||| byteBit b 1 ||| byteBit c 2 ||| byteBit d 3 ||| byteBit e 4 =
    BitVec.ofNat 8 (a.toNat + 2 * b.toNat + 4 * c.toNat + 8 * d.toNat + 16 * e.toNat) := by
  revert a b c d e
  decide

/-- The number of a channel's state (R171). -/
def ChannelWork.number : ChannelWork → Fin 3
  | .idle => 0
  | .serving _ _ _ => 1
  | .draining _ _ => 2

theorem ChannelWork.code_eq (k : ChannelWork) : k.code = BitVec.ofNat 8 k.number.val := by cases k <;> rfl

/-- The four channels' states in one byte, two bits each (R171). -/
theorem channelStates_byte (x y z t : Fin 3) :
    (BitVec.ofNat 8 x.val ||| BitVec.ofNat 8 y.val <<< 2 ||| BitVec.ofNat 8 z.val <<< 4 ||| BitVec.ofNat 8 t.val <<< 6) =
      BitVec.ofNat 8 (x.val + 4 * y.val + 16 * z.val + 64 * t.val) := by
  revert x y z t
  decide

theorem Job.code_promoted (job : Job) (promoted : Bool) :
    job.code ||| byteBit promoted 1 = BitVec.ofNat 8 ((decide (job = .retire)).toNat + 2 * promoted.toNat) := by
  revert promoted
  cases job <;> decide

theorem Job.code_eq (job : Job) : job.code = BitVec.ofNat 8 (decide (job = .retire)).toNat := by cases job <;> rfl

theorem pinByte_of_le : ∀ k, k ≤ 15 → (byteBit true 7 ||| byteOf (k % 16) : Byte) = BitVec.ofNat 8 (128 + k) := by
  intro k hk
  interval_cases k <;> rfl

/-! ## The descriptor's image (R173) -/

theorem Descriptor.image_flags (d : Descriptor) : d.image.flags =
    BitVec.ofNat 8 (d.enable.toNat + 2 * (decide (d.producer = .b)).toNat + 4 * (decide (d.policy = .explicit)).toNat +
      8 * d.skipEmpty.toNat + 16 * d.tags.toNat) := by
  unfold Descriptor.image
  dsimp only
  cases d.enable <;> cases d.producer <;> cases d.policy <;> cases d.skipEmpty <;> cases d.tags <;> rfl

theorem bytes24_setWidth (a : Addr) : bytes24 (a.setWidth 24) =
    [BitVec.ofNat 8 (a.toNat / 65536), BitVec.ofNat 8 (a.toNat / 256), BitVec.ofNat 8 a.toNat] := by
  have same : a.setWidth 24 = BitVec.ofNat 24 a.toNat := by
    apply BitVec.eq_of_toNat_eq
    simp
  rw [same, bytes24_ofNat]

theorem setWidth_setWidth (a : Addr) : (a.setWidth 24).setWidth 20 = a := by
  apply BitVec.eq_of_toNat_eq
  have := a.isLt
  simp only [BitVec.toNat_setWidth]
  omega

/-- The bits of a byte of five flags. -/
theorem flagByte_bits (a b c d e : Bool) :
    let flags : Byte := BitVec.ofNat 8 (a.toNat + 2 * b.toNat + 4 * c.toNat + 8 * d.toNat + 16 * e.toNat)
    flags.getLsbD 0 = a ∧ flags.getLsbD 1 = b ∧ flags.getLsbD 2 = c ∧ flags.getLsbD 3 = d ∧ flags.getLsbD 4 = e := by
  revert a b c d e
  decide

/-- A descriptor's image holds that descriptor, its counts in the range of R8. -/
theorem imageDescriptor_image {d : Descriptor} (length : d.length ≤ 64) (pin : d.pinLimit ≤ 15) :
    imageDescriptor d.image = d := by
  have count : ∀ n, n ≤ 64 → (byteOf n).toNat = n := fun n hn => by
    rw [byteOf, BitVec.toNat_ofNat]
    omega
  obtain ⟨enable, producer, policy, skipEmpty, tags⟩ := flagByte_bits d.enable (decide (d.producer = .b))
    (decide (d.policy = .explicit)) d.skipEmpty d.tags
  rw [← Descriptor.image_flags] at enable producer policy skipEmpty tags
  have producer' : (if decide (d.producer = .b) = true then Port.b else .a) = d.producer := by
    cases d.producer <;> rfl
  have policy' : (if decide (d.policy = .explicit) = true then Policy.explicit else .boundary) = d.policy := by
    cases d.policy <;> rfl
  simp only [imageDescriptor, enable, producer, policy, skipEmpty, tags, producer', policy']
  simp only [Descriptor.image, setWidth_setWidth, count _ length, count _ (by omega : d.pinLimit ≤ 64)]

theorem Part.selected_none (p : Part) (w : Win) {selection : Byte} (h : 1 < selection.toNat) :
    p.selected w selection = none := by
  have not0 : selection ≠ 0#8 := by rintro rfl; exact absurd h (by decide)
  have not1 : selection ≠ 1#8 := by rintro rfl; exact absurd h (by decide)
  rw [Part.selected, if_neg not0, if_neg not1]

theorem Part.selected_some (p : Part) (w : Win) {selection : Byte} (h : selection.toNat ≤ 1) :
    p.selected w selection = some (if selection.toNat = 0 then p.staging.staged[w] else p.live[w]) := by
  have cases' : selection.toNat = 0 ∨ selection.toNat = 1 := by omega
  rcases cases' with e | e <;> rw [byte_eq_of_toNat e] <;> rfl

/-- Settles O40: each reply's bytes, and the image that SET_WINDOW takes back. -/
theorem statusChannelAndWindowReplies : Obligations.StatusChannelAndWindowReplies := by
  unfold Obligations.StatusChannelAndWindowReplies
  refine ⟨fun s channel window selection => ⟨fun gives => ?status, fun gives => ?channel, fun gives => ?window⟩,
    fun d length pin => ⟨parseImage_imageBytes _, imageDescriptor_image length pin⟩⟩
  case status =>
    intro state mask
    have states : ∀ c, state c = ((s.part.channel c).work.number).val := fun c => by
      dsimp only [state]
      cases (s.part.channel c).work <;> rfl
    have reply : statusReply s.part =
        [s.part.opState.code,
          BitVec.ofNat 8 ((decide (s.part.timer.sync = .flywheel)).toNat + 2 * s.part.timer.pending.isSome.toNat),
          BitVec.ofNat 8 (s.part.staging.hold.toNat + 2 * s.part.staging.rejected.toNat),
          s.part.staging.changed.extractLsb' 8 8, s.part.staging.changed.extractLsb' 0 8,
          BitVec.ofNat 8 (state 0 + 4 * state 1 + 16 * state 2 + 64 * state 3),
          BitVec.ofNat 8 (mask 0 + 2 * mask 1 + 4 * mask 2 + 8 * mask 3)] := by
      rw [statusReply, byteBit_quad]
      simp only [states, mask, byteBit_pair, ChannelWork.code_eq, channelStates_byte]
      rfl
    rw [exec_getStatus_given gives, reply]
    cases s.part.opState <;> rfl
  case channel =>
    refine ⟨fun high => ?_, fun c code => ?_⟩
    · rw [exec_getChannel_given gives]
      simp only [State.takeGetChannel, channelArg_none high]
      rfl
    · intro ch items
      have reply : channelReply ch = items ++ [ch.holding.extractLsb' 8 8, ch.holding.extractLsb' 0 8] := by
        dsimp only [items]
        unfold channelReply
        cases ch.masked <;> match ch.work with
        | .idle => rfl
        | .serving w job none => cases job <;> rfl
        | .serving w job (some cp) => cases job <;> rfl
        | .draining w cp => rfl
      rw [exec_getChannel_given gives]
      simp only [State.takeGetChannel, channelArg_some code]
      change Host.Outcome.next (s.replied s.part (0x01#8 :: channelReply ch)) = _
      rw [reply]
      rfl
  case window =>
    refine ⟨fun bad => ?_, fun w ⟨number, code⟩ => ?_⟩
    · rw [exec_getWindow_given gives]
      unfold State.takeGetWindow
      rcases bad with noWindow | noSelection
      · simp only [windowArg_none noWindow]
        rfl
      · simp only [Part.selected_none _ _ noSelection]
        split <;> rfl
    · intro d address
      have reply : imageBytes d.image =
          [BitVec.ofNat 8 (d.enable.toNat + 2 * (decide (d.producer = .b)).toNat +
              4 * (decide (d.policy = .explicit)).toNat + 8 * d.skipEmpty.toNat + 16 * d.tags.toNat)] ++
            address d.logicalBase ++ [BitVec.ofNat 8 d.length] ++ address d.bank1Base ++ address d.bank2Base ++
            [BitVec.ofNat 8 d.pinLimit, d.writeMask.extractLsb' 8 8, d.writeMask.extractLsb' 0 8] := by
        rw [imageBytes, Descriptor.image_flags]
        simp only [Descriptor.image, bytes24_setWidth]
        rfl
      rw [exec_getWindow_given gives]
      simp only [State.takeGetWindow, windowArg_some number, Part.selected_some _ _ code]
      change Host.Outcome.next (s.replied s.part (0x01#8 :: imageBytes d.image)) = _
      rw [reply]
      rfl

/-! ## SET_WINDOW -/

theorem extract5_eq_zero (b : Byte) : b.extractLsb' 5 3 = 0#3 ↔
    b.getLsbD 5 = false ∧ b.getLsbD 6 = false ∧ b.getLsbD 7 = false := by
  revert b
  decide

theorem baseOk_iff {base : Addr24} {length : Byte} : baseOk base length = true ↔
    base.toNat % 16 = 0 ∧ base.toNat + 16 * length.toNat ≤ 1048576 := by
  simp only [baseOk, Bool.and_eq_true, decide_eq_true_eq]

/-- The field checks, row by row (R8). -/
theorem imageFieldsOk_iff (i : DescriptorImage) : imageFieldsOk i = true ↔ FieldChecks i := by
  have explicit : ∀ b : Bool, ((if b = true then Policy.explicit else Policy.boundary) = .explicit) ↔ b = true := by decide
  have implies : ∀ a b : Bool, (!(a && !b)) = true ↔ (a = true → b = true) := by decide
  have excludes : ∀ a b : Bool, (!(a && b)) = true ↔ (a = true → b = false) := by decide
  simp only [imageFieldsOk, Bool.and_eq_true, baseOk_iff, extract5_eq_zero, implies, excludes, decide_eq_true_eq,
    decide_eq_false_iff_not]
  simp only [imageDescriptor, explicit, Bool.not_eq_true, FieldChecks]
  constructor
  · rintro ⟨⟨⟨⟨⟨⟨⟨⟨⟨⟨a1, e1⟩, a2, e2⟩, a3, e3⟩, l1⟩, l2⟩, p⟩, f1⟩, f2⟩, f3⟩, r5, r6, r7⟩
    exact ⟨a1, a2, a3, e1, e2, e3, l1, l2, p, f1, f2, f3, r5, r6, r7⟩
  · rintro ⟨a1, a2, a3, e1, e2, e3, l1, l2, p, f1, f2, f3, r5, r6, r7⟩
    exact ⟨⟨⟨⟨⟨⟨⟨⟨⟨⟨a1, e1⟩, a2, e2⟩, a3, e3⟩, l1⟩, l2⟩, p⟩, f1⟩, f2⟩, f3⟩, r5, r6, r7⟩

theorem Part.geometryLocked_iff {p : Part} {w : Win} {d : Descriptor} : p.geometryLocked w d = true ↔
    p.service w ≠ none ∧ p.live[w].enable = true ∧ d.enable = true ∧
      ¬ (d.producer = p.live[w].producer ∧ d.logicalBase = p.live[w].logicalBase ∧ d.length = p.live[w].length ∧
        d.bank1Base = p.live[w].bank1Base ∧ d.bank2Base = p.live[w].bank2Base) := by
  simp only [Part.geometryLocked, Bool.and_eq_true, decide_eq_true_eq, Option.isSome_iff_ne_none, Part.liveOf,
    Descriptor.geometry, ne_eq, Geometry.mk.injEq, and_assoc]

/-- Settles O41: the argument, the field checks and the geometry lock in turn. -/
theorem setWindow : Obligations.SetWindow := by
  unfold Obligations.SetWindow
  intro s window image gives d
  refine ⟨fun bad => ?_, fun w ⟨number, checks⟩ => ?_⟩
  · rw [exec_setWindow_given gives]
    unfold State.takeSetWindow
    rcases bad with noWindow | unchecked
    · rw [windowArg_none noWindow]
      rfl
    · have failed : imageFieldsOk image = false := Bool.eq_false_iff.mpr ((imageFieldsOk_iff image).not.mpr unchecked)
      rw [failed]
      split <;> rfl
  · intro live locked
    have passed : imageFieldsOk image = true := (imageFieldsOk_iff image).mpr checks
    have taken : s.frameEnded.takeSetWindow window image =
        if s.part.geometryLocked w d then s.frameEnded.result .refused
        else s.frameEnded.carryOut fun p => p.stageDescriptor w d := by
      unfold State.takeSetWindow
      rw [windowArg_some number, passed]
      rfl
    refine ⟨fun isLocked => ?_, fun free => ?_⟩
    · rw [exec_setWindow_given gives, taken, if_pos (Part.geometryLocked_iff.mpr isLocked)]
      rfl
    · rw [exec_setWindow_given gives, taken, if_neg (Part.geometryLocked_iff.not.mpr free)]
      rfl

/-! ## GET_WINDOW_STATE -/

theorem serviceFlagBytes_eq {sv : Service} (pin : ∀ k, sv.pin = some k → k ≤ 15) :
    serviceFlagBytes sv =
      [BitVec.ofNat 8 (match sv.pin with | some k => 128 + k | none => 0),
        BitVec.ofNat 8 (sv.initial.toNat + 2 * sv.late.toNat + 4 * sv.deferred.toNat + 8 * sv.releasePending.toNat +
          16 * sv.carried.toNat)] := by
  unfold serviceFlagBytes
  rw [byteBit_five]
  cases h : sv.pin with
  | none => rfl
  | some k =>
    have := pinByte_of_le k (pin k h)
    simp only [Option.isSome_some, Option.getD_some, this]

/-- The byte of the spare: none with a ready bank, else the bank without a role (R174). -/
theorem bankByte_spare {sv : Service} {spare : Byte} (roles : sv.rolesDistinct = true)
    (ready : sv.ready ≠ none → spare = 0xFF#8)
    (free : ∀ k, sv.ready = none ∧ k ≠ sv.front ∧ k ≠ sv.back → spare = bankCode k) : bankByte sv.spare = spare := by
  cases h : sv.ready with
  | some image =>
    rw [ready (by simp [h])]
    simp [Service.spare, h, bankByte, noneByte]
  | none =>
    have newBack := Service.newBack_spec roles
    have spare' := (Service.spare_iff (Service.rolesDistinct_iff.mp roles).1 h sv.newBack).mpr newBack
    rw [spare', free _ ⟨h, newBack⟩, bankByte]

/-- Settles O42: the bytes of an OFF window and of one in service. -/
theorem getWindowState : Obligations.GetWindowState := by
  unfold Obligations.GetWindowState
  intro s window gives
  refine ⟨fun high => ?_, fun w number => ?_⟩
  · rw [exec_getWindowState_given gives, State.takeGetWindowState, windowArg_none high]
    rfl
  · intro r word n bank
    have taken : exec (.getWindowState window) s = .next (s.replied s.part (0x01#8 :: windowStateReply s.part w)) := by
      rw [exec_getWindowState_given gives, State.takeGetWindowState, windowArg_some number]
      rfl
    refine ⟨fun off => ?_, fun sv ⟨hs, roles, pin⟩ => ?_⟩
    · have reply : windowStateReply s.part w =
          [0#8, noneByte, noneByte, noneByte, noneByte, noneByte] ++ bytes16 r.frontNumber ++ [0#8, 0#8] ++
            bytes16 r.next ++ [byteOf r.frontFill, 0#8, 0#8, 0#8, 0#8, 0#8, byteOf r.age, byteOf r.dropped, 0#8, 0#8,
              0#8, noneByte, 0#8] := by
        simp only [windowStateReply]
        change (match r.service with | none => _ | some sv => _) = _
        rw [off]
      rw [taken, reply]
      rfl
    · intro copy spare readySpare freeSpare
      have copyBytes : copyStatusBytes (s.part.copyStatus w) = copy := by
        dsimp only [copy]
        cases s.part.copyStatus w with
        | none => rfl
        | waiting position job promoted => simp only [copyStatusBytes, Job.code_promoted]; rfl
        | served c job => simp only [copyStatusBytes, Job.code_eq]; rfl
      have spareByte : bankByte sv.spare = spare :=
        bankByte_spare roles readySpare fun k hk => (freeSpare k hk).trans (by cases k <;> rfl)
      have bankCode_eq : ∀ k, bankCode k = bank k := fun k => by cases k <;> rfl
      have reply : windowStateReply s.part w =
          [if sv.retiring then 2#8 else 1#8, bank sv.front, bankByte (sv.ready.map (fun i => i.bank)), bank sv.back,
            spare, bank sv.latest] ++ word r.frontNumber ++ word ((sv.ready.map (fun i => i.number)).getD 0#16) ++
            word r.next ++
            [n r.frontFill, n ((sv.ready.map (fun i => i.fill)).getD 0), n (lineCount sv.stale.b0),
              n (lineCount sv.stale.b1), n (lineCount sv.stale.b2), n (lineCount sv.dirty), n r.age, n r.dropped] ++
            [n (match sv.pin with | some k => 128 + k | none => 0),
              n (sv.initial.toNat + 2 * sv.late.toNat + 4 * sv.deferred.toNat + 8 * sv.releasePending.toNat +
                16 * sv.carried.toNat)] ++ copy := by
        rw [← copyBytes, ← spareByte]
        simp only [windowStateReply]
        change (match r.service with | none => _ | some sv => _) = _
        rw [hs]
        dsimp only
        rw [serviceFlagBytes_eq pin]
        simp only [bankCode_eq]
        rfl
      rw [taken, reply]
      simp only [Service.latest]
      cases sv.ready with
      | none => rfl
      | some image =>
        simp only [Option.map_some, Option.getD_some, bankByte, bankCode_eq]
        rfl

end Sys2Proof.Machine
end

section
/-!
What a memory access reads and leaves in the shared SRAM (R31, R137), and the RESET pin and power (R161, R164).
-/

namespace Sys2Proof.Machine

/-! ## Lanes -/

theorem pickBits_getLsbD (sel d old : Word) (i : Nat) :
    (pickBits sel d old).getLsbD i = if sel.getLsbD i then d.getLsbD i else old.getLsbD i := by
  unfold pickBits
  rw [BitVec.getLsbD_or, BitVec.getLsbD_and, BitVec.getLsbD_and, BitVec.getLsbD_not]
  by_cases hi : i < 16
  · cases sel.getLsbD i <;> simp [hi]
  · simp [hi, BitVec.getLsbD_of_ge _ _ (Nat.le_of_not_lt hi)]

theorem laneBits_getLsbD (l : Lanes) {i : Nat} (hi : i < 16) :
    (laneBits l).getLsbD i = if i < 8 then l.lower else l.upper := by
  obtain ⟨lower, upper⟩ := l
  cases lower <;> cases upper <;> interval_cases i <;> rfl

/-- The bits of a word in memory: the lower byte's, then the upper one's. -/
theorem Memory.readWord_getLsbD (m : Memory) (a : Addr) (i : Nat) : (m.readWord a).getLsbD i =
    if i < 8 then (m.readByte (2 * a.toNat)).getLsbD i else (m.readByte (2 * a.toNat + 1)).getLsbD (i - 8) := by
  rw [Memory.readWord, BitVec.getLsbD_append]
  rfl

theorem Memory.readWord_lower (m : Memory) (a : Addr) : (m.readWord a).extractLsb' 0 8 = m.readByte (2 * a.toNat) := by
  apply BitVec.eq_of_getLsbD_eq
  intro i hi
  rw [BitVec.getLsbD_extractLsb', Memory.readWord_getLsbD]
  simp [hi]

theorem Memory.readWord_upper (m : Memory) (a : Addr) :
    (m.readWord a).extractLsb' 8 8 = m.readByte (2 * a.toNat + 1) := by
  apply BitVec.eq_of_getLsbD_eq
  intro i hi
  rw [BitVec.getLsbD_extractLsb', Memory.readWord_getLsbD]
  simp [hi]

theorem readLanes_lower {l : Lanes} (h : l.lower = true) (word other : Word) :
    (readLanes l word other).extractLsb' 0 8 = word.extractLsb' 0 8 := by
  apply BitVec.eq_of_getLsbD_eq
  intro i hi
  rw [BitVec.getLsbD_extractLsb', BitVec.getLsbD_extractLsb', readLanes, pickBits_getLsbD,
    laneBits_getLsbD l (by omega)]
  simp [hi, h]

theorem readLanes_upper {l : Lanes} (h : l.upper = true) (word other : Word) :
    (readLanes l word other).extractLsb' 8 8 = word.extractLsb' 8 8 := by
  apply BitVec.eq_of_getLsbD_eq
  intro i hi
  rw [BitVec.getLsbD_extractLsb', BitVec.getLsbD_extractLsb', readLanes, pickBits_getLsbD,
    laneBits_getLsbD l (by omega)]
  simp [h]

theorem readLanes_both (word other : Word) : readLanes ⟨true, true⟩ word other = word := by
  apply BitVec.eq_of_getLsbD_eq
  intro i hi
  rw [readLanes, pickBits_getLsbD, laneBits_getLsbD _ hi]
  simp

/-! ## An access at the SRAM -/

/-- The bytes after the write of a word's enabled lanes (R31). -/
theorem Memory.readByte_writeWord {m : Memory} (wf : m.wf = true) (a : Addr) (l : Lanes) (d : Word) (k : Nat) :
    (m.writeWord a l d).readByte k =
      if l.lower = true ∧ k = 2 * a.toNat then d.extractLsb' 0 8
      else if l.upper = true ∧ k = 2 * a.toNat + 1 then d.extractLsb' 8 8
      else m.readByte k := by
  have inWord := Memory.readWord_writeWord wf a l d
  have sel : ∀ i, i < 16 → ((m.writeWord a l d).readWord a).getLsbD i =
      if (if i < 8 then l.lower else l.upper) = true then d.getLsbD i else (m.readWord a).getLsbD i := by
    intro i hi
    rw [inWord, pickBits_getLsbD, laneBits_getLsbD l hi]
  split
  case isTrue lower =>
    obtain ⟨on, rfl⟩ := lower
    rw [← Memory.readWord_lower]
    apply BitVec.eq_of_getLsbD_eq
    intro i hi
    rw [BitVec.getLsbD_extractLsb', BitVec.getLsbD_extractLsb', sel _ (by omega)]
    simp [hi, on]
  case isFalse notLower =>
    split
    case isTrue upper =>
      obtain ⟨on, rfl⟩ := upper
      rw [← Memory.readWord_upper]
      apply BitVec.eq_of_getLsbD_eq
      intro i hi
      rw [BitVec.getLsbD_extractLsb', BitVec.getLsbD_extractLsb', sel _ (by omega)]
      simp [on]
    case isFalse notUpper =>
      exact Memory.readByte_writeWord_ne (fun on e => notLower ⟨on, e⟩) (fun on e => notUpper ⟨on, e⟩) d

theorem Memory.afterWrite_written {m : Memory} (wf : m.wf = true) (a : MemAccess) (slow : Bool) :
    m.afterWrite (m.writeWord a.addr a.lanes a.data) a slow :=
  .inl (Memory.readByte_writeWord wf a.addr a.lanes a.data)

/-- The memory after a write that completes (R31, R137). -/
theorem State.accessMem_afterWrite {s : State} {m : MemAccess} (wf : s.mem.wf = true) (write : m.write = true) :
    s.mem.afterWrite (s.accessMem m) m (decide (m.time < s.sramTime)) := by
  unfold State.accessMem
  split
  case isTrue => exact Memory.afterWrite_written wf m _
  case isFalse kept =>
    refine .inr ⟨?_, rfl⟩
    simp only [write, Bool.true_and, Bool.not_eq_true, Bool.or_eq_false_iff, Bool.not_eq_false', State.slowSram] at kept
    exact kept.1

theorem State.accessMem_read {s : State} {m : MemAccess} (read : m.write = false) : s.accessMem m = s.mem := by
  simp [State.accessMem, read]

theorem State.accessWord_fast {s : State} {m : MemAccess} (fast : s.sramTime ≤ m.time) :
    s.accessWord m = readLanes m.lanes (s.mem.readWord m.addr) (Config.freeWord s.freeIndex) := by
  have : s.slowSram m = false := decide_eq_false (by omega)
  simp [State.accessWord, this]

/-- The enabled lanes of a word read in time are memory's (R31, R137). -/
theorem State.accessWord_lanes {s : State} {m : MemAccess} (fast : s.sramTime ≤ m.time) :
    (m.lanes.lower = true → (s.accessWord m).extractLsb' 0 8 = s.mem.readByte (2 * m.addr.toNat)) ∧
    (m.lanes.upper = true → (s.accessWord m).extractLsb' 8 8 = s.mem.readByte (2 * m.addr.toNat + 1)) := by
  rw [State.accessWord_fast fast]
  exact ⟨fun on => (readLanes_lower on _ _).trans (Memory.readWord_lower _ _),
    fun on => (readLanes_upper on _ _).trans (Memory.readWord_upper _ _)⟩

/-- A whole word read in time is memory's. -/
theorem State.accessWord_both {s : State} {m : MemAccess} (lanes : m.lanes = ⟨true, true⟩) (fast : s.sramTime ≤ m.time) :
    s.accessWord m = s.mem.readWord m.addr := by
  rw [State.accessWord_fast fast, lanes, readLanes_both]

/-! ## The RESET pin and power -/

theorem FrameState.afterReset_eq (f : FrameState) : f.afterReset = if f = .idle then .idle else .discarded := by
  cases f <;> rfl

theorem NoticeUnit.line_reset : NoticeUnit.reset.line = false := by decide

/-- Settles O54: every block at its reset values, the write under way done or not done, the pins as they move. -/
theorem resetPinAndPower : Obligations.ResetPinAndPower := by
  unfold Obligations.ResetPinAndPower
  intro s wf cleared link
  have links : s.link.afterReset = link := by
    rw [Link.afterReset, FrameState.afterReset_eq]
  refine ⟨⟨s.resetMem, ?_, fun reads => ?_, fun m ⟨access, write⟩ => ?_⟩, ⟨rfl, rfl, NoticeUnit.line_reset,
    NoticeUnit.line_reset, rfl, rfl⟩, rfl, ?_, rfl⟩
  · simp only [exec, execResetPin, State.resetPin, links]
    rfl
  · unfold State.resetMem
    cases access : s.part.arbiter.access with
    | none => rfl
    | some m => simp [reads m access]
  · unfold State.resetMem
    rw [access]
    dsimp only
    split
    case isTrue => exact Memory.afterWrite_written wf m true
    case isFalse => exact .inr ⟨rfl, rfl⟩
  · simp only [exec, execPowerUp, State.powerUp, links]
    rfl

end Sys2Proof.Machine
end

section
/-!
Completions of memory accesses (R136, R139, R143): a port's read and write, the two halves of a masked write, and the word
that a copier moves (R76).
-/

namespace Sys2Proof.Machine

/-! ## The completion as a whole -/

theorem State.completed_finished {s : State} {m : MemAccess} (word : Word)
    (kind : m.kind = .single ∨ m.kind = .pairWrite) (soft : s.part.softReset = .none) :
    s.completed m word = s.onPart (s.part.finishAccess m word) := by
  unfold State.completed State.onPart
  rcases kind with k | k
  · simp only [k, soft]
  · simp only [k, soft]

/-- A completion outside a soft reset, but for the first half of a pair: memory, the free values, and the requestor's
event (R139). -/
theorem exec_completion {s : State} {m : MemAccess} (access : s.part.arbiter.access = some m)
    (kind : m.kind = .single ∨ m.kind = .pairWrite) (soft : s.part.softReset = .none) :
    exec .memoryAccessCompletion s =
      .next { (s.onPart (s.part.finishAccess m (s.accessWord m))) with
        mem := s.accessMem m, freeIndex := s.freeIndex + 1 } := by
  have entry : exec .memoryAccessCompletion s =
      .next (({ s with mem := s.accessMem m } : State).useFree.completed m (s.accessWord m)) := by
    simp only [exec, execMemoryAccessCompletion, State.memoryCompletion, access]
  have part : ({ s with mem := s.accessMem m } : State).useFree.part = s.part := rfl
  rw [entry, State.completed_finished _ kind (part ▸ soft), part]
  generalize s.part.finishAccess m (s.accessWord m) = p
  rfl

/-- The part with its memory port free. -/
def Part.portFree (p : Part) : Part := { p with arbiter := { p.arbiter with access := none } }

/-- What is delivered is at rest: the memory port is free, and is offered (R139). -/
theorem Part.finishAccess_of_rest {p q : Part} {m : MemAccess} {word : Word} (delivered : p.deliver m word = q)
    (rest : q.atRest = true) : p.finishAccess m word = q.portFree.offer := by
  unfold Part.finishAccess
  rw [delivered, Part.round_rest rest, Part.round_rest rest]
  rfl

theorem Part.completeAccess_eq (p : Part) (q : Port) (d : Option Word) :
    p.completeAccess q d =
      p.withPort q ⟨none, if (p.ports.get q).busCycle then d else none, (p.ports.get q).busCycle⟩ := rfl

theorem Part.portRequests_none {p : Part} {q : Port} (h : p.accessOf q = none) : p.portRequests q = false := by
  rw [Part.portRequests, h]

/-- A port's access completes with nothing else requesting: its port is answered, and the memory port stays free. -/
theorem Part.finishAccess_port {p : Part} {q : Port} {m : MemAccess} (own : m.requestor = .port q)
    (rest : p.atRest = true) (only : p.onlyPortActive q) (word : Word) :
    p.finishAccess m word =
      (p.completeAccess q (if m.write then none else some word)).portFree := by
  obtain ⟨touch, channels, other⟩ := only
  have delivered : p.deliver m word = p.completeAccess q (if m.write then none else some word) := by
    rw [Part.deliver, own]
  have rest' : (p.completeAccess q (if m.write then none else some word)).atRest = true :=
    Part.atRest_withPort rest q nofun
  rw [Part.finishAccess_of_rest delivered rest']
  have ports : ∀ r, (p.completeAccess q (if m.write then none else some word)).portFree.portRequests r = false := by
    intro r
    by_cases h : r = q
    · subst h
      exact Part.portRequests_none (by cases r <;> rfl)
    · have : r = q.other := by cases r <;> cases q <;> first | rfl | exact absurd rfl h
      subst this
      rw [← other]
      cases q <;> rfl
  exact Part.offer_noRequest touch channels (ports .a) (ports .b)

/-- Settles O19: the word read goes to the port, and nothing begins. -/
theorem portReadCompletes : Obligations.PortReadCompletes := by
  unfold Obligations.PortReadCompletes
  intro q m s access own read kind soft rest only busy
  refine ⟨s.accessWord m, ?_, State.accessWord_lanes⟩
  rw [exec_completion access (.inl kind) soft, Part.finishAccess_port own rest only, State.accessMem_read read, read]
  rfl

/-- Settles O20: the enabled lanes are written, and nothing begins. -/
theorem portWriteCompletes : Obligations.PortWriteCompletes := by
  unfold Obligations.PortWriteCompletes
  intro q m s access own write kind soft rest only wf
  refine ⟨s.accessMem m, ?_, State.accessMem_afterWrite wf write⟩
  rw [exec_completion access kind soft, Part.finishAccess_port own rest only, write, Part.completeAccess_eq]
  simp only [if_true, ite_self]
  rfl

/-! ## The second half of a pair -/

/-- Settles O21: the merged word, bit by bit. -/
theorem pairWriteHalfBegins : Obligations.PairWriteHalfBegins := by
  unfold Obligations.PairWriteHalfBegins
  intro q a mask m s access own kind read lanes acc
  refine ⟨mergedWord mask a.lanes a.data (s.accessWord m), ?_, fun i hi => ?_⟩
  · have half : s.part.secondHalf m mask (s.accessWord m) = { s.part with
        arbiter := { s.part.arbiter with
          access := some { m with
            write := true, data := mergedWord mask a.lanes a.data (s.accessWord m), kind := .pairWrite } } } := by
      simp only [Part.secondHalf, own, acc]
    have done : ({ s with mem := s.accessMem m }).useFree.completed m (s.accessWord m) =
        { (s.onPart (s.part.secondHalf m mask (s.accessWord m))) with
          mem := s.accessMem m, freeIndex := s.freeIndex + 1 } := by
      unfold State.completed
      rw [kind]
      rfl
    simp only [exec, execMemoryAccessCompletion, State.memoryCompletion, access]
    rw [done, half, State.accessMem_read read]
    rfl
  · intro taken
    have bit : (mergedWord mask a.lanes a.data (s.accessWord m)).getLsbD i =
        if mask.getLsbD i = true ∧ (if i < 8 then a.lanes.lower else a.lanes.upper) = true then a.data.getLsbD i else (s.accessWord m).getLsbD i := by
      rw [mergedWord, pickBits_getLsbD, BitVec.getLsbD_and, laneBits_getLsbD _ hi]
      simp only [Bool.and_eq_true]
    refine ⟨fun h => ?_, fun ⟨h, fast⟩ => ?_⟩
    · rw [bit, if_pos h]
    · rw [bit, if_neg h, State.accessWord_both lanes fast, Memory.readWord_getLsbD]

/-! ## A copier's word -/

/-- Copiers that go on with the lines they have: still at rest. -/
theorem Part.atRest_progress {p q : Part} (rest : p.atRest = true) (ports : q.ports = p.ports)
    (records : q.records = p.records) (waiting : q.copy.waiting = p.copy.waiting) (queue : q.copy.queue = p.copy.queue)
    (deferred : q.copy.deferred = p.copy.deferred)
    (serving : ∀ c w job, (q.channel c).work = .serving w job none → (p.channel c).work = .serving w job none)
    (idle : ∀ c, (q.channel c).work = .idle → (p.channel c).work = .idle)
    (masked : ∀ c, (q.channel c).masked = (p.channel c).masked)
    (marks : ∀ w l, lineIn (p.inCopyLines w) l = true → lineIn (q.inCopyLines w) l = true)
    (touch : q.copy.touch.work = .idle → p.copy.touch.work = .idle)
    (draining : p.touchDraining = true → q.touchDraining = true) : q.atRest = true := by
  obtain ⟨holds, jobs, queues⟩ := Part.atRest_iff_queues.mp rest
  have service : ∀ v, q.service v = p.service v := fun v => Part.service_of_records records v
  refine Part.atRest_iff_queues.mpr ⟨fun c => ?_, ?_, ?_, fun r => ?_, fun r => ?_⟩
  · refine Part.channelHolds_iff.mpr fun w job serves => ?_
    obtain ⟨unmasked, within⟩ := Part.channelHolds_iff.mp (holds c) w job (serving c w job serves)
    exact ⟨(masked c).trans unmasked, fun sv hs l hl => marks w l (within sv (by rw [← service]; exact hs) l hl)⟩
  · refine jobs.imp (fun none => ?_) (fun empty => by rw [waiting]; exact empty)
    refine List.find?_eq_none.mpr fun c _ => ?_
    by_cases h : (q.channel c).work = .idle
    · simp [masked, Part.freeChannel?_none_of_idle none (idle c h)]
    · simp [h]
  · by_cases h : q.copy.touch.work = .idle
    · refine .inr fun e he hs => marks _ _ ?_
      exact (queues.touch.resolve_left fun h' => h' (touch h)) e (queue ▸ he) hs
    · exact .inl h
  · have old := queues.deferred r
    simp only [Part.deferredHolds, Bool.or_eq_true, deferred, queue] at old ⊢
    exact old.imp (fun h => h.imp id draining) id
  · refine Part.stallHolds_iff.mpr fun a st n ha hp => ?_
    have acc : q.accessOf r = p.accessOf r := by simp only [Part.accessOf, ports]
    rw [Part.stallEnded_congr queue (fun v => by rw [service])]
    exact Part.stallHolds_iff.mp (queues.stalls r) a st n (acc ▸ ha) hp

theorem ChannelWork.withCopy_line {k : ChannelWork} {cp : LineCopy} (h : k.lineCopy? = some cp) (cp' : LineCopy) :
    (k.withCopy cp').lineCopy? = some cp' := by
  match k with
  | .idle => cases h
  | .draining w c => rfl
  | .serving w job c => rfl

/-- A copier's place in its line is not looked at by the marks (R15). -/
theorem ChannelWork.mark_withCopy {k : ChannelWork} {cp cp' : LineCopy} (h : k.lineCopy? = some cp)
    (line : cp'.line = cp.line) (w : Win) : (k.withCopy cp').mark w = k.mark w := by
  match k with
  | .idle => cases h
  | .draining v c => rfl
  | .serving v job none => cases h
  | .serving v job (some c) =>
    cases h
    simp only [ChannelWork.withCopy, ChannelWork.mark, line]

theorem TouchWork.withCopy_line {k : TouchWork} {cp : LineCopy} (h : k.lineCopy? = some cp) (cp' : LineCopy) :
    (k.withCopy cp').lineCopy? = some cp' := by
  cases k with
  | idle => cases h
  | copying w c => rfl
  | draining w c => rfl

theorem TouchWork.mark_withCopy {k : TouchWork} {cp cp' : LineCopy} (h : k.lineCopy? = some cp)
    (line : cp'.line = cp.line) (w : Win) : (k.withCopy cp').mark w = k.mark w := by
  cases k with
  | idle => cases h
  | copying v c =>
    cases h
    simp only [TouchWork.withCopy, TouchWork.mark, line]
  | draining v c => rfl

/-- A channel goes on in its line: at rest as before. -/
theorem Part.atRest_channelProgress {p : Part} {c : Chan} {cp cp' : LineCopy} (rest : p.atRest = true)
    (has : (p.channel c).work.lineCopy? = some cp) (line : cp'.line = cp.line) (holding : Word) :
    (p.setChannel c { p.channel c with work := (p.channel c).work.withCopy cp', holding := holding }).atRest = true := by
  generalize hq : p.setChannel c { p.channel c with work := (p.channel c).work.withCopy cp', holding := holding } = q
  have own : q.channel c = { p.channel c with work := (p.channel c).work.withCopy cp', holding := holding } := by
    rw [← hq, Part.channel_setChannel_same]
  have others : ∀ d, d ≠ c → q.channel d = p.channel d := fun d hd => by rw [← hq, Part.channel_setChannel_ne p hd]
  have hasLine : (q.channel c).work.lineCopy? = some cp' := by
    rw [own]
    exact ChannelWork.withCopy_line has cp'
  have work : ∀ d, (q.channel d).work.lineCopy? = none → q.channel d = p.channel d := fun d none => others d fun h => by
    rw [h, hasLine] at none
    cases none
  refine Part.atRest_progress rest (by rw [← hq]; rfl) (by rw [← hq]; rfl) (by rw [← hq]; rfl) (by rw [← hq]; rfl)
    (by rw [← hq]; rfl) (fun d w job serves => ?_) (fun d idle => ?_) (fun d => ?_) (fun w l h => ?_)
    (by rw [← hq]; exact id) (by rw [← hq]; exact id)
  · rw [← work d (by rw [serves]; rfl)]
    exact serves
  · rw [← work d (by rw [idle]; rfl)]
    exact idle
  · by_cases h : d = c
    · rw [h, own]
    · rw [others d h]
  · rw [Part.lineIn_inCopyLines] at h ⊢
    refine h.imp (fun ⟨d, hd⟩ => ⟨d, ?_⟩) (by rw [← hq]; exact id)
    by_cases e : d = c
    · subst e
      rw [own]
      dsimp only
      rw [ChannelWork.mark_withCopy has line]
      exact hd
    · rw [others d e]
      exact hd

/-- The touch copier goes on in its line: at rest as before. -/
theorem Part.atRest_touchProgress {p : Part} {cp cp' : LineCopy} (rest : p.atRest = true)
    (has : p.copy.touch.work.lineCopy? = some cp) (line : cp'.line = cp.line) (holding : Word) :
    (p.withTouch ⟨p.copy.touch.work.withCopy cp', holding⟩).atRest = true := by
  refine Part.atRest_progress rest rfl rfl rfl rfl rfl (fun _ _ _ => id) (fun _ => id) (fun _ => rfl) (fun w l h => ?_)
    (fun h => ?_) (fun h => ?_)
  · rw [Part.lineIn_inCopyLines] at h ⊢
    refine h.imp id fun marked => ?_
    change lineIn ((p.copy.touch.work.withCopy cp').mark w) l = true
    rw [TouchWork.mark_withCopy has line]
    exact marked
  · have := TouchWork.withCopy_line has cp'
    rw [show p.copy.touch.work.withCopy cp' = .idle from h] at this
    cases this
  · simp only [Part.touchDraining, Part.withTouch] at h ⊢
    cases hk : p.copy.touch.work with
    | idle => simp [hk] at h
    | copying w c => simp [hk] at h
    | draining w c => simp only [TouchWork.withCopy]

/-- A channel alone goes on with its line at a free memory port: its next half word is granted (R76, R139). -/
theorem Part.offer_channelProgress {p : Part} {c : Chan} {cp cp' : LineCopy} (soft : p.softReset = .none)
    (only : p.onlyChannelActive c) (has : (p.channel c).work.lineCopy? = some cp) (holding : Word) :
    (p.setChannel c { p.channel c with work := (p.channel c).work.withCopy cp', holding := holding }).portFree.offer =
      { p.setChannel c { p.channel c with work := (p.channel c).work.withCopy cp', holding := holding } with
        arbiter := p.arbiter.grantedToChannel c (copierAccess (.channel c) cp' holding p.arbiter.accessTime) } := by
  generalize hq : p.setChannel c { p.channel c with work := (p.channel c).work.withCopy cp', holding := holding } = q
  obtain ⟨touch, others, ports⟩ := only
  have own : q.channel c = { p.channel c with work := (p.channel c).work.withCopy cp', holding := holding } := by
    rw [← hq, Part.channel_setChannel_same]
  have ownLine : (q.channel c).work.lineCopy? = some cp' := by rw [own]; exact ChannelWork.withCopy_line has cp'
  have arbiter : q.arbiter = p.arbiter := by rw [← hq]; rfl
  rw [Part.offer_onlyChannel (p := q.portFree) (c := c) rfl (by rw [← hq]; simp [Part.portFree, soft])
    (by rw [← hq]; exact touch) (by change (q.channel c).work.lineCopy?.isSome = true; rw [ownLine]; rfl)
    (fun d hd => ?_) (fun r => by rw [← hq]; exact ports r), Part.grantChannel_eq (p := q.portFree) ownLine]
  · have holdingWord : (q.portFree.channel c).holding = holding := by
      change (q.channel c).holding = holding
      rw [own]
    rw [holdingWord]
    simp only [Part.portFree, Arbiter.grantedToChannel, arbiter]
  · have same : q.channel d = p.channel d := by rw [← hq, Part.channel_setChannel_ne p hd]
    change (q.channel d).work.lineCopy?.isSome = false
    rw [same]
    exact others d hd

/-- A word that is not the last of its line. -/
theorem Fin16.succ_val {k : Fin 16} (h : k.val < 15) : (k + 1).val = k.val + 1 := by
  rw [Fin.val_add_one_of_lt']
  omega

end Sys2Proof.Machine
end

section
/-!
A copier's word in memory (R76): the read fills the holding word, the write goes on with the line's next word.
-/

namespace Sys2Proof.Machine

theorem Part.deliver_channelRead {p : Part} {m : MemAccess} {c : Chan} {cp : LineCopy} (own : m.requestor = .channel c)
    (has : (p.channel c).work.lineCopy? = some cp) (read : m.write = false) (word : Word) :
    p.deliver m word = p.setChannel c { p.channel c with
      work := (p.channel c).work.withCopy { cp with half := .write }, holding := word } := by
  simp only [Part.deliver, own, Part.channelWordDone, has, read, Bool.false_eq_true, if_false]

theorem Part.deliver_channelWrite {p : Part} {m : MemAccess} {c : Chan} {cp : LineCopy} (own : m.requestor = .channel c)
    (has : (p.channel c).work.lineCopy? = some cp) (write : m.write = true) (inside : cp.word ≠ 15) (word : Word) :
    p.deliver m word = p.setChannel c { p.channel c with
      work := (p.channel c).work.withCopy { cp with word := cp.word + 1, half := .read },
      holding := (p.channel c).holding } := by
  simp only [Part.deliver, own, Part.channelWordDone, has, write, if_true, inside, if_false]
  rfl

theorem Part.deliver_touchRead {p : Part} {m : MemAccess} {cp : LineCopy} (own : m.requestor = .touch)
    (has : p.copy.touch.work.lineCopy? = some cp) (read : m.write = false) (word : Word) :
    p.deliver m word = p.withTouch ⟨p.copy.touch.work.withCopy { cp with half := .write }, word⟩ := by
  simp only [Part.deliver, own, Part.touchWordDone, has, read, Bool.false_eq_true, if_false]
  rfl

theorem Part.deliver_touchWrite {p : Part} {m : MemAccess} {cp : LineCopy} (own : m.requestor = .touch)
    (has : p.copy.touch.work.lineCopy? = some cp) (write : m.write = true) (inside : cp.word ≠ 15) (word : Word) :
    p.deliver m word =
      p.withTouch ⟨p.copy.touch.work.withCopy { cp with word := cp.word + 1, half := .read }, p.copy.touch.holding⟩ := by
  simp only [Part.deliver, own, Part.touchWordDone, has, write, if_true, inside, if_false]
  rfl

/-- The touch copier goes on with its line at a free memory port: its next half word is granted (R76, R139). -/
theorem Part.offer_touchProgress {p : Part} {cp cp' : LineCopy} (soft : p.softReset = .none)
    (has : p.copy.touch.work.lineCopy? = some cp) (holding : Word) :
    (p.withTouch ⟨p.copy.touch.work.withCopy cp', holding⟩).portFree.offer =
      { p.withTouch ⟨p.copy.touch.work.withCopy cp', holding⟩ with
        arbiter := { p.arbiter with access := some (copierAccess .touch cp' holding p.arbiter.accessTime) } } :=
  Part.offer_touch rfl (by simp [Part.portFree, Part.withTouch, soft]) (TouchWork.withCopy_line has cp')

/-- A channel alone takes its word and goes on (R76, R139). -/
theorem Part.finishAccess_channel {p : Part} {m : MemAccess} {word holding : Word} {c : Chan} {cp cp' : LineCopy}
    (soft : p.softReset = .none) (rest : p.atRest = true) (only : p.onlyChannelActive c)
    (has : (p.channel c).work.lineCopy? = some cp) (line : cp'.line = cp.line)
    (delivered : p.deliver m word = p.setChannel c { p.channel c with
      work := (p.channel c).work.withCopy cp', holding := holding }) :
    p.finishAccess m word = { p.setChannel c { p.channel c with
        work := (p.channel c).work.withCopy cp', holding := holding } with
      arbiter := p.arbiter.grantedToChannel c (copierAccess (.channel c) cp' holding p.arbiter.accessTime) } := by
  have rest' := Part.atRest_channelProgress rest has line holding
  rw [Part.finishAccess_of_rest delivered rest', Part.offer_channelProgress soft only has]

/-- The touch copier takes its word and goes on (R76, R139). -/
theorem Part.finishAccess_touch {p : Part} {m : MemAccess} {word holding : Word} {cp cp' : LineCopy}
    (soft : p.softReset = .none) (rest : p.atRest = true) (has : p.copy.touch.work.lineCopy? = some cp)
    (line : cp'.line = cp.line)
    (delivered : p.deliver m word = p.withTouch ⟨p.copy.touch.work.withCopy cp', holding⟩) :
    p.finishAccess m word = { p.withTouch ⟨p.copy.touch.work.withCopy cp', holding⟩ with
      arbiter := { p.arbiter with access := some (copierAccess .touch cp' holding p.arbiter.accessTime) } } := by
  have rest' := Part.atRest_touchProgress rest has line holding
  rw [Part.finishAccess_of_rest delivered rest', Part.offer_touchProgress soft has]

theorem copierAccess_write (q : Requestor) (cp : LineCopy) (holding : Word) (time : Nat) :
    copierAccess q { cp with half := .write } holding time =
      { requestor := q, write := true, addr := cp.target + BitVec.ofNat 20 (16 * cp.line + cp.word.val), lanes := ⟨true, true⟩,
        data := holding, kind := .single, time := time } := rfl

theorem copierAccess_next (q : Requestor) (cp : LineCopy) (holding : Word) (time : Nat) (inside : cp.word.val < 15) :
    copierAccess q { cp with word := cp.word + 1, half := .read } holding time =
      { requestor := q, write := false, addr := cp.source + BitVec.ofNat 20 (16 * cp.line + (cp.word.val + 1)),
        lanes := ⟨true, true⟩, data := 0#16, kind := .single, time := time } := by
  simp only [copierAccess, Fin16.succ_val inside]
  rfl

/-- Settles O22: the copier goes on in its line, and its next half word is granted. -/
theorem copiersMoveOneWord : Obligations.CopiersMoveOneWord := by
  unfold Obligations.CopiersMoveOneWord
  intro cp m s access lanes kind soft rest wf time slow writeAddr readAddr read toWrite toRead moved
  have reads : read (s.accessWord m) := by
    intro fast
    rw [State.accessWord_both lanes fast]
    rfl
  have inside : cp.word.val < 15 → cp.word ≠ 15 := fun h e => by simp [e] at h
  refine ⟨fun c ⟨own, has, only⟩ => ⟨fun hw => ⟨s.accessWord m, reads, ?_⟩, fun ⟨hw, hk⟩ => ?_⟩,
    fun ⟨own, has⟩ => ⟨fun hw => ⟨s.accessWord m, reads, ?_⟩, fun ⟨hw, hk⟩ => ?_⟩⟩
  · have next := Part.finishAccess_channel soft rest only has (cp' := { cp with half := .write }) rfl
      (Part.deliver_channelRead own has hw (s.accessWord m))
    rw [exec_completion access (.inl kind) soft, next, State.accessMem_read hw,
      copierAccess_write]
    rfl
  · refine ⟨s.accessMem m, State.accessMem_afterWrite wf hw, ?_⟩
    have next := Part.finishAccess_channel soft rest only has (cp' := { cp with word := cp.word + 1, half := .read }) rfl
      (Part.deliver_channelWrite own has hw (inside hk) (s.accessWord m))
    rw [exec_completion access (.inl kind) soft, next, copierAccess_next _ _ _ _ hk]
    rfl
  · have next := Part.finishAccess_touch soft rest has (cp' := { cp with half := .write }) rfl
      (Part.deliver_touchRead own has hw (s.accessWord m))
    rw [exec_completion access (.inl kind) soft, next, State.accessMem_read hw,
      copierAccess_write]
    rfl
  · refine ⟨s.accessMem m, State.accessMem_afterWrite wf hw, ?_⟩
    have next := Part.finishAccess_touch soft rest has (cp' := { cp with word := cp.word + 1, half := .read }) rfl
      (Part.deliver_touchWrite own has hw (inside hk) (s.accessWord m))
    rw [exec_completion access (.inl kind) soft, next, copierAccess_next _ _ _ _ hk]
    rfl

end Sys2Proof.Machine
end

section
/-!
The four steps of a boundary at one window (R57 to R62): the release or overrun, the pin, the flip, the age.
-/

namespace Sys2Proof.Machine

/-! ## Steps 2 to 4 -/

/-- The record after step 4 for a front that did not change, its service state being `sv` (R62). -/
def Record.aged (r : Record) (sv : Service) : Record := { r with age := saturate r.age, service := some sv }

theorem Record.flipped_of_unpinned (r : Record) {sv : Service} (pin : sv.pin = none) (image : ReadyImage) (late : Bool) :
    r.flipped sv image late = r.flipped { sv with pin := none } image late := by
  rw [Record.flipped, pin]
  rfl

/-- Steps 2 to 4 at a window (R60 to R62). -/
def Part.pinAndFlip (p : Part) (w : Win) : Part := (p.boundaryPin w).boundaryFlip w

theorem Part.handleBoundary_eq (p : Part) (w : Win) : p.handleBoundary w = (p.boundaryRelease w).pinAndFlip w := rfl

theorem Part.ageStep_of_service {p : Part} {w : Win} {sv : Service} (hs : p.service w = some sv) :
    p.ageStep w = p.setRecord w ((p.record w).aged sv) := by
  have : { p.record w with age := saturate (p.record w).age } = (p.record w).aged sv := by
    rw [Record.aged, ← hs]
    rfl
  rw [Part.ageStep, this]

theorem Part.ageStep_setService (p : Part) (w : Win) (sv : Service) :
    (p.setService w sv).ageStep w = p.setRecord w ((p.record w).aged sv) := by
  rw [Part.ageStep_of_service (Part.service_setService_same p w sv), Part.setRecord_setService,
    Part.record_setService_same]
  rfl

section
variable {p : Part} {w : Win} {sv : Service}

theorem Part.boundaryPin_unpinned (hs : p.service w = some sv) (pin : sv.pin = none) : p.boundaryPin w = p := by
  rw [Part.boundaryPin, hs]
  dsimp only
  rw [pin]

theorem Part.boundaryPin_ages {k : Nat} (hs : p.service w = some sv) (pin : sv.pin = some k)
    (below : k + 1 < (p.liveOf w).pinLimit) : p.boundaryPin w = p.setService w { sv with pin := some (k + 1) } := by
  rw [Part.boundaryPin, hs]
  dsimp only
  rw [pin]
  dsimp only
  rw [if_neg (by omega)]

theorem Part.boundaryPin_ends {k : Nat} (hs : p.service w = some sv) (pin : sv.pin = some k)
    (limit : (p.liveOf w).pinLimit ≤ k + 1) :
    p.boundaryPin w = (p.setService w { sv with pin := none }).note sv.consumer w .pinExpired := by
  rw [Part.boundaryPin, hs]
  dsimp only
  rw [pin]
  dsimp only
  rw [if_pos limit, Part.endPin_eq hs]

theorem Part.boundaryFlip_nothing (hs : p.service w = some sv) (ready : sv.ready = none) :
    p.boundaryFlip w = p.setRecord w ((p.record w).aged sv) := by
  rw [Part.boundaryFlip, hs]
  dsimp only
  rw [ready]
  exact Part.ageStep_of_service hs

theorem Part.boundaryFlip_flips {image : ReadyImage} (hs : p.service w = some sv) (pin : sv.pin = none)
    (ready : sv.ready = some image) :
    p.boundaryFlip w = (p.setRecord w ((p.record w).flipped sv image false)).note sv.consumer w .imageReady := by
  rw [Part.boundaryFlip, hs]
  dsimp only
  rw [ready, pin, Part.flip_some hs ready]
  rfl

theorem Part.boundaryFlip_defers {k : Nat} (hs : p.service w = some sv) (pin : sv.pin = some k)
    (ready : sv.ready.isSome = true) :
    p.boundaryFlip w = p.setRecord w ((p.record w).aged { sv with deferred := true }) := by
  rw [Part.boundaryFlip, hs]
  dsimp only
  rw [if_pos ready, pin, ← Part.ageStep_setService]
  rfl

theorem Part.pinAndFlip_nothing (hs : p.service w = some sv) (pin : sv.pin = none) (ready : sv.ready = none) :
    p.pinAndFlip w = p.setRecord w ((p.record w).aged sv) := by
  rw [Part.pinAndFlip, Part.boundaryPin_unpinned hs pin, Part.boundaryFlip_nothing hs ready]

theorem Part.pinAndFlip_flips {image : ReadyImage} (hs : p.service w = some sv) (pin : sv.pin = none)
    (ready : sv.ready = some image) :
    p.pinAndFlip w = (p.setRecord w ((p.record w).flipped sv image false)).note sv.consumer w .imageReady := by
  rw [Part.pinAndFlip, Part.boundaryPin_unpinned hs pin, Part.boundaryFlip_flips hs pin ready]

/-- A pin below the limit ages; a ready image waits for it (R60, R61). -/
theorem Part.pinAndFlip_pinned {k : Nat} (hs : p.service w = some sv) (pin : sv.pin = some k)
    (below : k + 1 < (p.liveOf w).pinLimit) :
    p.pinAndFlip w = p.setRecord w ((p.record w).aged
      { sv with pin := some (k + 1), deferred := sv.deferred || sv.ready.isSome }) := by
  rw [Part.pinAndFlip, Part.boundaryPin_ages hs pin below]
  have hs' := Part.service_setService_same p w { sv with pin := some (k + 1) }
  cases ready : sv.ready.isSome with
  | false =>
    rw [Part.boundaryFlip_nothing hs' (Option.isSome_eq_false_iff.mp ready |> Option.isNone_iff_eq_none.mp),
      Part.setRecord_setService, Part.record_setService_same, Bool.or_false]
    rfl
  | true =>
    rw [Part.boundaryFlip_defers hs' rfl ready, Part.setRecord_setService, Part.record_setService_same, Bool.or_true]
    rfl

/-- A pin at the limit ends, with PIN_EXPIRED (R60). -/
theorem Part.pinAndFlip_expires {k : Nat} (hs : p.service w = some sv) (pin : sv.pin = some k)
    (limit : (p.liveOf w).pinLimit ≤ k + 1) (ready : sv.ready = none) :
    p.pinAndFlip w =
      (p.setRecord w ((p.record w).aged { sv with pin := none })).note sv.consumer w .pinExpired := by
  have hs' : ((p.setService w { sv with pin := none }).note sv.consumer w .pinExpired).service w =
      some { sv with pin := none } := Part.service_setService_same p w { sv with pin := none }
  have age := Part.ageStep_setService p w { sv with pin := none }
  rw [Part.pinAndFlip, Part.boundaryPin_ends hs pin limit, Part.boundaryFlip_nothing hs' ready, ← age,
    Part.ageStep_of_service (Part.service_setService_same p w _)]
  rfl

/-- A pin at the limit ends and the ready image flips (R60, R61). -/
theorem Part.pinAndFlip_expires_flips {k : Nat} {image : ReadyImage} (hs : p.service w = some sv)
    (pin : sv.pin = some k) (limit : (p.liveOf w).pinLimit ≤ k + 1) (ready : sv.ready = some image) :
    p.pinAndFlip w =
      ((p.setRecord w ((p.record w).flipped { sv with pin := none } image false)).note sv.consumer w .pinExpired).note
        sv.consumer w .imageReady := by
  have hs' : ((p.setService w { sv with pin := none }).note sv.consumer w .pinExpired).service w =
      some { sv with pin := none } := Part.service_setService_same p w { sv with pin := none }
  have records : ((p.setService w { sv with pin := none }).setRecord w
      ((p.record w).flipped { sv with pin := none } image false)) =
      p.setRecord w ((p.record w).flipped { sv with pin := none } image false) := Part.setRecord_setService p w _ _
  have record : ((p.setService w { sv with pin := none }).note sv.consumer w .pinExpired).record w =
      { p.record w with service := some { sv with pin := none } } := Part.record_setService_same p w _
  rw [Part.pinAndFlip, Part.boundaryPin_ends hs pin limit, Part.boundaryFlip_flips hs' rfl ready, ← records, record]
  rfl

end

/-! ## Step 1 -/

/-- The back is not free for a release: one is pending, or the back is not caught up (R58). -/
def Part.behind (p : Part) (w : Win) (sv : Service) : Prop :=
  sv.releasePending = true ∨ sv.backStale ≠ 0#64 ∨ p.inCopyLines w ≠ 0#64

theorem Part.behind_iff {p : Part} {w : Win} {sv : Service} :
    (sv.releasePending || !p.caughtUp w sv) = true ↔ p.behind w sv := by
  have zero : noLines = 0#64 := rfl
  simp only [Part.behind, Part.caughtUp, Bool.or_eq_true, Bool.not_eq_true', Bool.and_eq_false_iff, decide_eq_false_iff_not,
    ne_eq, zero]

/-- What a release leaves to the new back: BACK_READY where it is up to date, else the window joins (R49, R51). -/
def Part.readiesBack (p : Part) (w : Win) (producer : Port) (upToDate : Bool) : Part :=
  if upToDate then p.note producer w .backReady else p.join w .catchUp

theorem Part.join_note (p : Part) (w v : Win) (job : Job) (x : Port) (k : Notice) :
    (p.join w job).note x v k = (p.note x v k).join w job := by
  unfold Part.join
  rw [Part.copyStatus_congr (q := p.note x v k) (p := p) rfl]
  split <;> rfl

theorem Part.join_setRecord (p : Part) (w v : Win) (job : Job) (r : Record) :
    (p.join w job).setRecord v r = (p.setRecord v r).join w job := by
  unfold Part.join
  rw [Part.copyStatus_congr (q := p.setRecord v r) (p := p) rfl]
  split <;> rfl

theorem Part.note_note_other (p : Part) (w v : Win) (x : Port) (k l : Notice) :
    (p.note x w k).note x.other v l = (p.note x.other v l).note x w k := by
  cases x <;> rfl

section
variable (p : Part) (w : Win) (producer : Port) (upToDate : Bool)

theorem Part.readiesBack_setRecord (r : Record) :
    (p.readiesBack w producer upToDate).setRecord w r = (p.setRecord w r).readiesBack w producer upToDate := by
  cases upToDate
  · exact Part.join_setRecord p w w .catchUp r
  · rfl

theorem Part.readiesBack_note (k : Notice) :
    (p.readiesBack w producer upToDate).note producer.other w k =
      (p.note producer.other w k).readiesBack w producer upToDate := by
  cases upToDate
  · exact Part.join_note p w w .catchUp producer.other k
  · exact Part.note_note_other p w w producer .backReady k

theorem Part.readiesBack_record (v : Win) : (p.readiesBack w producer upToDate).record v = p.record v := by
  cases upToDate
  · change (p.join w .catchUp).record v = p.record v
    simp only [Part.record, Part.join_records]
  · rfl

theorem Part.readiesBack_liveOf (v : Win) : (p.readiesBack w producer upToDate).liveOf v = p.liveOf v := by
  cases upToDate
  · change (p.join w .catchUp).liveOf v = p.liveOf v
    unfold Part.join
    split <;> rfl
  · rfl

end

section
variable {p : Part} {w : Win} {sv : Service}

theorem Part.boundaryRelease_explicit (hs : p.service w = some sv) (policy : (p.liveOf w).policy = .explicit) :
    p.boundaryRelease w = p := by
  rw [Part.boundaryRelease, hs]
  dsimp only
  rw [if_pos policy]

theorem Part.boundaryRelease_overrun (hs : p.service w = some sv) (policy : (p.liveOf w).policy = .boundary)
    (behind : p.behind w sv) :
    p.boundaryRelease w = (p.note sv.geometry.producer w .overrun).setService w { sv with carried := true } := by
  rw [Part.boundaryRelease, hs]
  dsimp only
  rw [if_neg (by rw [policy]; nofun), if_pos (Part.behind_iff.mpr behind)]
  rfl

theorem Part.boundaryRelease_skips (hs : p.service w = some sv) (policy : (p.liveOf w).policy = .boundary)
    (free : ¬ p.behind w sv) (skips : (p.liveOf w).skipEmpty = true ∧ sv.dirty = 0#64) : p.boundaryRelease w = p := by
  have skip : ((p.liveOf w).skipEmpty && decide (sv.dirty = noLines)) = true := by
    rw [skips.1, skips.2]
    rfl
  rw [Part.boundaryRelease, hs]
  dsimp only
  rw [if_neg (by rw [policy]; nofun), if_neg (mt Part.behind_iff.mp free), if_pos skip]

/-- An implicit release: the record, then the new back is readied (R49, R58). -/
theorem Part.boundaryRelease_releases {new : Bank} (hs : p.service w = some sv) (policy : (p.liveOf w).policy = .boundary)
    (free : ¬ p.behind w sv) (skips : ¬ ((p.liveOf w).skipEmpty = true ∧ sv.dirty = 0#64)) (hn : sv.newBack = new) :
    p.boundaryRelease w =
      ((if sv.ready.isSome then p.note sv.consumer w .dropped else p).setRecord w ((p.record w).released sv)).readiesBack w
        sv.geometry.producer (decide (sv.gained new = 0#64)) := by
  have skip : ¬ ((p.liveOf w).skipEmpty && decide (sv.dirty = noLines)) = true := by
    rw [Bool.and_eq_true, decide_eq_true_iff]
    exact skips
  rw [Part.boundaryRelease, hs]
  dsimp only
  rw [if_neg (by rw [policy]; nofun), if_neg (mt Part.behind_iff.mp free), if_neg skip, Part.release_eq hs hn]
  dsimp only
  unfold Part.readiesBack
  simp only [decide_eq_true_iff]
  rfl

end

/-- Settles O35: the part after step 1 in its two forms, then steps 2 to 4 by pin and ready image. -/
theorem boundaryPinFlipAndAge : Obligations.BoundaryPinFlipAndAge := by
  unfold Obligations.BoundaryPinFlipAndAge
  intro p q w sv sv' hs policy behind skips step r consumer aged flipped limit
  obtain ⟨r', first, service, record, pin, ready, geometry, deferred, live, setRecord⟩ :
      ∃ r' : Part, p.boundaryRelease w = r' ∧ r'.service w = some sv' ∧
        r'.record w = { r with service := some sv' } ∧ sv'.pin = sv.pin ∧ sv'.ready = sv.ready ∧
        sv'.geometry = sv.geometry ∧ sv'.deferred = sv.deferred ∧ (r'.liveOf w).pinLimit = limit ∧
        ∀ x, r'.setRecord w x = q.setRecord w x := by
    rcases step with ⟨kind, rfl, rfl⟩ | ⟨boundary, late, rfl, rfl⟩
    · refine ⟨q, ?_, hs, ?_, rfl, rfl, rfl, rfl, rfl, fun _ => rfl⟩
      · rcases kind with explicit | ⟨boundary, free, skip⟩
        · exact Part.boundaryRelease_explicit hs explicit
        · exact Part.boundaryRelease_skips hs boundary free skip
      · rw [← hs]
        rfl
    · exact ⟨_, Part.boundaryRelease_overrun hs boundary late, Part.service_setService_same _ _ _,
        Part.record_setService_same _ _ _, rfl, rfl, rfl, rfl, rfl, Part.setRecord_setService _ _ _⟩
  have consumer' : sv'.consumer = consumer := by rw [Service.consumer, geometry]
  have agedAs : ∀ x, (r'.record w).aged x = aged x := fun x => by rw [record]; rfl
  have flippedUnpinned : ∀ image, (r'.record w).flipped { sv' with pin := none } image false = flipped image :=
    fun image => by rw [record]; rfl
  have flippedAs : ∀ image, sv'.pin = none → (r'.record w).flipped sv' image false = flipped image := fun image hp => by
    rw [Record.flipped_of_unpinned _ hp, flippedUnpinned]
  rw [Part.handleBoundary_eq, first]
  refine ⟨fun ⟨h, hr⟩ => ?_, fun image ⟨h, hr⟩ => ?_, fun k ⟨h, hk⟩ => ?_, fun k ⟨h, hk, hr⟩ => ?_,
    fun k image ⟨h, hk, hr⟩ => ?_⟩
  · rw [Part.pinAndFlip_nothing service (pin.trans h) (ready.trans hr), setRecord, agedAs]
  · rw [Part.pinAndFlip_flips service (pin.trans h) (ready.trans hr), setRecord, flippedAs image (pin.trans h), consumer']
  · rw [Part.pinAndFlip_pinned service (pin.trans h) (by rw [live]; exact hk), setRecord, agedAs, ready, deferred]
  · rw [Part.pinAndFlip_expires service (pin.trans h) (by rw [live]; exact hk) (ready.trans hr), setRecord, agedAs, consumer']
  · rw [Part.pinAndFlip_expires_flips service (pin.trans h) (by rw [live]; exact hk) (ready.trans hr), setRecord,
      flippedUnpinned, consumer']

/-- Settles O34: an overrun and a skip go on as in O35; a release, then steps 2 to 4 by the pin. -/
theorem boundaryStepOne : Obligations.BoundaryStepOne := by
  unfold Obligations.BoundaryStepOne
  intro p w sv hs policy r limit behind skips consumer aged flipped overrun carrying
  have late := fun hb : behind => boundaryPinFlipAndAge p overrun w sv carrying hs (.inr ⟨policy, hb, rfl, rfl⟩)
  have skip := fun (hb : ¬ behind) (hk : skips) =>
    boundaryPinFlipAndAge p p w sv sv hs (.inl ⟨.inr ⟨policy, hb, hk⟩, rfl, rfl⟩)
  refine ⟨fun ⟨hb, pin, ready⟩ => (late hb).1 ⟨pin, ready⟩, fun image ⟨hb, pin, ready⟩ => (late hb).2.1 image ⟨pin, ready⟩,
    fun ⟨hb, hk, pin, ready⟩ => (skip hb hk).1 ⟨pin, ready⟩,
    fun image ⟨hb, hk, pin, ready⟩ => (skip hb hk).2.1 image ⟨pin, ready⟩, fun new ⟨hb, hk, roles, dropped, spare⟩ => ?_⟩
  have hn : sv.newBack = new := Service.newBack_eq roles dropped spare
  intro gained image after droppedCount noted released shown
  generalize hu : decide (sv.gained new = 0#64) = upToDate
  have ends : ∀ q r', released q r' =
      (q.setRecord w { r' with next := r.next + 1#16, dropped := droppedCount }).readiesBack w sv.geometry.producer
        upToDate := by
    intro q r'
    rw [← hu]
    unfold Part.readiesBack
    simp only [decide_eq_true_iff]
    rfl
  have release : p.boundaryRelease w =
      (noted.setRecord w (r.released sv)).readiesBack w sv.geometry.producer upToDate :=
    hu ▸ Part.boundaryRelease_releases hs policy hb hk hn
  have record : ((noted.setRecord w (r.released sv)).readiesBack w sv.geometry.producer upToDate).record w =
      r.released sv := by
    rw [Part.readiesBack_record, Part.record_setRecord_same]
  have service : ((noted.setRecord w (r.released sv)).readiesBack w sv.geometry.producer upToDate).service w =
      some (sv.afterRelease r.next new) := by
    rw [Part.service, record, Record.released_eq r hn]
  have live : (((noted.setRecord w (r.released sv)).readiesBack w sv.geometry.producer upToDate).liveOf w).pinLimit =
      limit := by
    rw [Part.readiesBack_liveOf]
    dsimp only [noted]
    split <;> rfl
  have flippedAs : (r.released sv).flipped { sv.afterRelease r.next new with pin := none }
      ⟨sv.back, r.next, lineCount sv.dirty⟩ false = { flipped image after with next := r.next + 1#16, dropped := droppedCount } := by
    rw [Record.released_eq r hn]
    rfl
  rw [Part.handleBoundary_eq, release]
  refine ⟨fun pin => ?_, fun k ⟨pin, limited⟩ => ?_, fun k ⟨pin, below⟩ => ?_⟩
  · rw [Part.pinAndFlip_flips service pin rfl, record, Record.flipped_of_unpinned (sv := sv.afterRelease r.next new) _ pin,
      flippedAs,
      Part.readiesBack_setRecord, Part.setRecord_setRecord, ← ends]
    rfl
  · rw [Part.pinAndFlip_expires_flips service pin (by rw [live]; exact limited) rfl, record, flippedAs,
      Part.readiesBack_setRecord, Part.setRecord_setRecord]
    change Part.note (Part.note _ sv.geometry.producer.other w .pinExpired) consumer w .imageReady = shown _
    rw [Part.readiesBack_note]
    dsimp only [shown]
    rw [ends]
    rfl
  · rw [Part.pinAndFlip_pinned service pin (by rw [live]; exact below), record, Part.readiesBack_setRecord,
      Part.setRecord_setRecord, ends, Record.released_eq r hn]
    dsimp only [Service.afterRelease, Option.isSome_some]
    rw [Bool.or_true]
    rfl

end Sys2Proof.Machine
end

section
/-!
The set check (R128) and the apply attempt of a boundary (R129 to R131).
-/

namespace Sys2Proof.Machine

/-! ## The set check's list -/

/-- A region as first word and number of words. -/
def Region.span (r : Region) : Nat × Nat := (r.base, r.words)

theorem Region.disjoint_iff {r t : Region} :
    r.disjoint t = true ↔ r.span.1 + r.span.2 ≤ t.span.1 ∨ t.span.1 + t.span.2 ≤ r.span.1 := by
  simp [Region.disjoint, Region.span]

theorem pairwiseDisjoint_iff (l : List Region) : pairwiseDisjoint l = true ↔ spansDisjoint (l.map Region.span) := by
  induction l with
  | nil => simp [pairwiseDisjoint]
  | cons r rest ih => simp [pairwiseDisjoint, ih, Region.disjoint_iff]

theorem Geometry.regions_spans (g : Geometry) :
    g.regions.map Region.span = areaSpans g.logicalBase g.bank1Base g.bank2Base g.length := rfl

/-- The drained regions as spans (R95, R128). -/
theorem Part.drainRegions_spans (p : Part) : p.copy.drainRegions.map Region.span = p.drainSpans := by
  have span : ∀ cp : LineCopy, cp.targetRegion.span = ((cp.target + BitVec.ofNat 20 (16 * cp.line)).toNat, 16) := fun _ => rfl
  unfold CopyEngine.drainRegions Part.drainSpans
  rw [List.map_append, List.map_filterMap]
  congr 1
  · refine List.filterMap_congr fun c _ => ?_
    change Option.map _ (match (p.channel c).work with | .draining _ cp => _ | _ => _) = _
    cases (p.channel c).work <;> rfl
  · cases p.copy.touch.work <;> rfl

theorem Part.boundaryRegions_spans (p : Part) (w : Win) :
    (p.boundaryRegions w).map Region.span =
      match p.service w with
      | some sv => areaSpans sv.geometry.logicalBase sv.geometry.bank1Base sv.geometry.bank2Base sv.geometry.length
      | none =>
        if p.staging.changed.getLsbD w.val = true ∧ p.staging.staged[w].enable = true then
          areaSpans p.staging.staged[w].logicalBase p.staging.staged[w].bank1Base p.staging.staged[w].bank2Base
            p.staging.staged[w].length
        else [] := by
  unfold Part.boundaryRegions
  cases p.service w with
  | some sv => rfl
  | none =>
    dsimp only
    simp only [Bool.and_eq_true]
    exact apply_ite (List.map Region.span) _ _ _

theorem Part.setCheckBoundary_iff (p : Part) : p.setCheckBoundary = true ↔ spansDisjoint p.spansAtBoundary := by
  have spans : (allWindows.flatMap p.boundaryRegions ++ p.copy.drainRegions).map Region.span = p.spansAtBoundary := by
    rw [List.map_append, List.map_flatMap, Part.drainRegions_spans]
    unfold Part.spansAtBoundary
    congr 1
    refine List.flatMap_congr fun w _ => ?_
    refine (Part.boundaryRegions_spans p w).trans ?_
    cases p.service w <;> rfl
  rw [Part.setCheckBoundary, pairwiseDisjoint_iff, spans]

theorem Part.setCheckRun_iff (p : Part) : p.setCheckRun = true ↔ spansDisjoint p.spansAtRun := by
  have spans : (allWindows.flatMap p.runRegions ++ p.copy.drainRegions).map Region.span = p.spansAtRun := by
    rw [List.map_append, List.map_flatMap, Part.drainRegions_spans]
    unfold Part.spansAtRun
    congr 1
    refine List.flatMap_congr fun w _ => ?_
    unfold Part.runRegions
    exact apply_ite (List.map Region.span) _ _ _
  rw [Part.setCheckRun, pairwiseDisjoint_iff, spans]

/-! ## The apply attempt -/

theorem Part.applyDeferred_iff (p : Part) :
    p.applyDeferred = true ↔
      ∃ w sv, p.staging.changed.getLsbD w.val = true ∧ p.service w = some sv ∧ sv.retiring = true := by
  simp only [Part.applyDeferred, List.any_eq_true, Bool.and_eq_true]
  constructor
  · rintro ⟨w, -, marked, retiring⟩
    cases hs : p.service w with
    | none => simp [hs] at retiring
    | some sv => exact ⟨w, sv, marked, hs, by simpa [hs] using retiring⟩
  · rintro ⟨w, sv, marked, hs, retiring⟩
    exact ⟨w, mem_allWindows w, marked, by simp [hs, retiring]⟩

theorem Part.appliedLive_get (p : Part) (w : Win) :
    p.appliedLive[w] = if p.staging.changed.getLsbD w.val then p.staging.staged[w] else p.live[w] :=
  Vector.getElem_ofFn w.isLt

/-- Settles O36: the attempt's branches, with the model's tests read as propositions. -/
theorem applyAttempt : Obligations.ApplyAttempt := by
  unfold Obligations.ApplyAttempt
  intro p attempts marked deferred fits
  have hd : p.applyDeferred = true ↔ deferred := p.applyDeferred_iff
  have hf : p.setCheckBoundary = true ↔ fits := p.setCheckBoundary_iff
  refine ⟨fun no => if_neg no, fun ⟨yes, hw⟩ => ?_, fun ⟨yes, hw, meet⟩ => ?_, fun ⟨yes, hw, fit⟩ => ?_⟩
  · rw [Part.applyAttempt, if_pos yes, if_pos (hd.mpr hw)]
  · rw [Part.applyAttempt, if_pos yes, if_neg (mt hd.mp hw), if_neg (mt hf.mp meet)]
    rfl
  · refine ⟨p.appliedLive, ?_, p.appliedLive_get⟩
    rw [Part.applyAttempt, if_pos yes, if_neg (mt hd.mp hw), if_pos (hf.mpr fit)]
    rfl

end Sys2Proof.Machine
end

section
/-!
The retire event (R68 to R70): the record, the touch entries, and the window's copy work.
-/

namespace Sys2Proof.Machine

/-! ## Notices that are pending -/

/-- The notice is pending on the port for the window. -/
def Part.pending (p : Part) (x : Port) (w : Win) (k : Notice) : Prop :=
  ((p.notices.get x).window[w]).getLsbD k.bit = true

theorem NoticeSet.add_getLsbD (s : NoticeSet) (k : Notice) (i : Nat) :
    (NoticeSet.add s k).getLsbD i = (s.getLsbD i || decide (i = k.bit)) := by
  have : k.bit < 8 := by cases k <;> decide
  rw [NoticeSet.add, BitVec.getLsbD_or, BitVec.getLsbD_twoPow]
  congr 1
  by_cases h : i = k.bit
  · simp [h, this]
  · simp [h, Ne.symm h]

theorem Part.notices_note_same (p : Part) (x : Port) (w : Win) (k : Notice) :
    ((p.note x w k).notices.get x).window[w] = NoticeSet.add (p.notices.get x).window[w] k := by
  cases x <;> exact Vector.getElem_set_self w.isLt

theorem Part.pending_note_same (p : Part) (x : Port) (w : Win) (k : Notice) : (p.note x w k).pending x w k := by
  rw [Part.pending, Part.notices_note_same, NoticeSet.add_getLsbD]
  simp

/-- Noting loses no notice (R151). -/
theorem Part.pending_note {p : Part} {x : Port} {w : Win} {k : Notice} (h : p.pending x w k) (y : Port) (v : Win)
    (l : Notice) : (p.note y v l).pending x w k := by
  by_cases hx : y = x
  · subst hx
    by_cases hv : w = v
    · subst hv
      rw [Part.pending, Part.notices_note_same, NoticeSet.add_getLsbD, show _ = true from h]
      rfl
    · have apart : v.val ≠ w.val := fun e => hv (Fin.ext e.symm)
      have same : ((p.note y v l).notices.get y).window[w] = (p.notices.get y).window[w] := by
        cases y <;> exact Vector.getElem_set_ne v.isLt w.isLt apart
      rw [Part.pending, same]
      exact h
  · have same : (p.note y v l).notices.get x = p.notices.get x := by
      cases x <;> cases y <;> first | rfl | exact absurd rfl hx
    rw [Part.pending, same]
    exact h

theorem Part.pending_noteBoth_same (p : Part) (w : Win) (k : Notice) (x : Port) : (p.noteBoth w k).pending x w k := by
  cases x
  · exact Part.pending_note (Part.pending_note_same p .a w k) .b w k
  · exact Part.pending_note_same (p.note .a w k) .b w k

theorem Part.pending_noteBoth {p : Part} {x : Port} {w : Win} {k : Notice} (h : p.pending x w k) (v : Win) (l : Notice) :
    (p.noteBoth v l).pending x w k := Part.pending_note (Part.pending_note h .a v l) .b v l

/-! ## The record -/

/-- The service state with which a window goes RETIRING (R68). -/
def Service.goingHome (sv : Service) : Service :=
  let stale := sv.stale.set sv.back (sv.backStale ||| sv.dirty)
  match sv.ready with
  | none => { sv with pin := none, stale := stale, dirty := 0#64, releasePending := false, retiring := true }
  | some image =>
    { sv with
      front := image.bank, ready := none, initial := false, late := false, deferred := false, pin := none
      stale := stale, dirty := 0#64, releasePending := false, retiring := true }

/-- The record after a ready image, if there is one, became the front. -/
def Record.showing (r : Record) (ready : Option ReadyImage) (service : Option Service) : Record :=
  match ready with
  | none => { r with service := service }
  | some image => { r with frontNumber := image.number, frontFill := image.fill, age := 0, service := service }

/-- IMAGE_READY where a ready image became the front (R63). -/
def Part.notesImage (p : Part) (w : Win) (sv : Service) : Part :=
  if sv.ready.isSome then p.note sv.consumer w .imageReady else p

theorem Part.retireRecord_of {p p1 : Part} {w : Win} {sv : Service} (flipped : (p.endPin w).flip w false = p1)
    (hs : p1.service w = some sv) :
    p.retireRecord w = p1.setService w { sv.dirtyToStale with releasePending := false, retiring := true } := by
  rw [Part.retireRecord, flipped]
  dsimp only
  rw [hs]

theorem Service.goingHome_unready {sv : Service} (ready : sv.ready = none) :
    sv.goingHome =
      { ({ sv with pin := none } : Service).dirtyToStale with releasePending := false, retiring := true } := by
  rw [Service.goingHome, ready, Service.dirtyToStale]
  rfl

theorem Service.goingHome_ready {sv : Service} {image : ReadyImage} (ready : sv.ready = some image) :
    sv.goingHome =
      { ({ sv with
            pin := none, front := image.bank, ready := none, initial := false, deferred := false
            late := false } : Service).dirtyToStale with
        releasePending := false, retiring := true } := by
  rw [Service.goingHome, ready]
  rfl

theorem Part.retireRecord_eq {p : Part} {w : Win} {sv : Service} (hs : p.service w = some sv) :
    p.retireRecord w =
      (p.notesImage w sv).setRecord w ((p.record w).showing sv.ready (some sv.goingHome)) := by
  have unpinned := Part.service_setService_same p w { sv with pin := none }
  have ended := Part.endPin_eq hs
  cases ready : sv.ready with
  | none =>
    have flipped : (p.endPin w).flip w false = p.setService w { sv with pin := none } := by
      rw [ended, Part.flip_none unpinned ready]
    have image : p.notesImage w sv = p := by rw [Part.notesImage, ready]; rfl
    rw [Part.retireRecord_of flipped unpinned, ← Service.goingHome_unready ready, image, Part.setService,
      Part.setRecord_setService, Part.record_setService_same]
    rfl
  | some image =>
    have flipped : (p.endPin w).flip w false =
        (p.setRecord w (((p.setService w { sv with pin := none }).record w).flipped { sv with pin := none } image
          false)).note sv.consumer w .imageReady := by
      rw [ended, Part.flip_some unpinned ready, Part.setRecord_setService]
      rfl
    have noted : p.notesImage w sv = p.note sv.consumer w .imageReady := by rw [Part.notesImage, ready]; rfl
    have service : ((p.setRecord w (((p.setService w { sv with pin := none }).record w).flipped
        { sv with pin := none } image false)).note sv.consumer w .imageReady).service w =
        some { sv with
            pin := none, front := image.bank, ready := none, initial := false, deferred := false, late := false } :=
      Part.service_setRecord_same p w _
    have set := Part.setService_setRecord p w (((p.setService w { sv with pin := none }).record w).flipped
      { sv with pin := none } image false) sv.goingHome
    rw [Part.retireRecord_of flipped service, ← Service.goingHome_ready ready, noted]
    change (Part.setService _ w sv.goingHome).note sv.consumer w .imageReady = _
    rw [set, Part.record_setService_same]
    rfl

theorem Service.goingHome_stale (sv : Service) :
    sv.goingHome.stale = sv.stale.set sv.back (sv.backStale ||| sv.dirty) := by
  unfold Service.goingHome
  cases sv.ready <;> rfl

/-! ## What a retire leaves -/

section
variable {p : Part} {w : Win} {sv : Service}

theorem Part.retireRecord_copy (hs : p.service w = some sv) : (p.retireRecord w).copy = p.copy := by
  rw [Part.retireRecord_eq hs, Part.notesImage]
  split <;> rfl

theorem Part.retireRecord_record (hs : p.service w = some sv) :
    (p.retireRecord w).record w = (p.record w).showing sv.ready (some sv.goingHome) := by
  rw [Part.retireRecord_eq hs, Part.record_setRecord_same]

theorem Part.notesImage_record (v : Win) : (p.notesImage w sv).record v = p.record v := by
  unfold Part.notesImage
  split <;> rfl

theorem Part.retireRecord_record_ne (hs : p.service w = some sv) {v : Win} (h : v ≠ w) :
    (p.retireRecord w).record v = p.record v := by
  rw [Part.retireRecord_eq hs, Part.record_setRecord_ne _ h, Part.notesImage_record]

theorem Record.showing_service (r : Record) (ready : Option ReadyImage) (service : Option Service) :
    (r.showing ready service).service = service := by
  cases ready <;> rfl

/-- What is left of a window that a retire turns OFF (R69). -/
def Part.endsOff (p : Part) (w : Win) : Part :=
  (((p.removeTouches w true).drainWindow w).dropService w).noteBoth w .retired

/-- With bank 0 up to date a retire ends in OFF (R69). -/
theorem Part.retire_off (hs : p.service w = some sv) (upToDate : sv.goingHome.stale.b0 = 0#64) :
    p.retire w = (p.retireRecord w).endsOff w := by
  have service : (p.retireRecord w).service w = some sv.goingHome := by
    rw [Part.service, Part.retireRecord_record hs, Record.showing_service]
  rw [Part.retire, service]
  exact if_pos upToDate

/-- Else the window is RETIRING, with the job RETIRE (R70). -/
theorem Part.retire_home (hs : p.service w = some sv) (stale : sv.goingHome.stale.b0 ≠ 0#64) :
    p.retire w = ((p.retireRecord w).removeTouches w false).convertToRetire w := by
  have service : (p.retireRecord w).service w = some sv.goingHome := by
    rw [Part.service, Part.retireRecord_record hs, Record.showing_service]
  rw [Part.retire, service]
  exact if_neg stale

end

/-- A conversion to RETIRE where the window has no place: it joins (R70). -/
theorem Part.convertToRetire_joins {p : Part} {w : Win} (none : p.copyStatus w = .none) :
    p.convertToRetire w = p.setWaiting (p.copy.waiting ++ [⟨w, .retire, false⟩]) := by
  rw [Part.convertToRetire, if_pos none, Part.join, if_pos none]

/-- What a conversion to RETIRE leaves alone. -/
theorem Part.convertToRetire_keeps (p : Part) (w : Win) :
    (p.convertToRetire w).notices = p.notices ∧ (p.convertToRetire w).copy.queue = p.copy.queue ∧
      (p.convertToRetire w).copy.deferred = p.copy.deferred ∧ (p.convertToRetire w).copy.touch = p.copy.touch := by
  by_cases h : p.copyStatus w = .none
  · rw [Part.convertToRetire_joins h]
    exact ⟨rfl, rfl, rfl, rfl⟩
  · rw [Part.convertToRetire, if_neg h]
    exact ⟨rfl, rfl, rfl, rfl⟩

/-! ## Deferred touch requests of the window -/

section
variable {p : Part} {w : Win} {all : Bool} {x : Port} {line : Nat}

theorem Part.removeTouches_deferred (h : p.copy.deferred.get x = some (w, line)) :
    (p.removeTouches w all).copy.deferred.get x = none := by
  cases x <;>
  · simp only [PerPort.get] at h
    simp [Part.removeTouches, PerPort.get, h]

theorem Part.removeTouches_deferred_ne {v : Win} (h : p.copy.deferred.get x = some (v, line)) (other : v ≠ w) :
    (p.removeTouches w all).copy.deferred.get x = some (v, line) := by
  cases x <;>
  · simp only [PerPort.get] at h
    simp [Part.removeTouches, PerPort.get, h, other]

end

/-! ## The window's job is RETIRE -/

theorem Part.work_converted {p : Part} {w : Win} (place : p.copyStatus w ≠ .none) (c : Chan) :
    ((p.convertToRetire w).channel c).work = ((p.channel c).work).converted w := by
  rw [Part.convertToRetire, if_neg place]
  simp [Part.channel]

theorem Part.servedBy_some_iff {p : Part} {w : Win} (h : p.servedBy w ≠ none) :
    ∃ c job cp, p.servedBy w = some (c, job) ∧ (p.channel c).work = .serving w job cp := by
  obtain ⟨⟨c, job⟩, found⟩ := Option.ne_none_iff_exists'.mp h
  obtain ⟨d, -, serves⟩ := List.exists_of_findSome?_eq_some found
  refine ⟨c, job, ?_⟩
  cases hk : (p.channel d).work with
  | idle => simp [hk] at serves
  | draining v cp => simp [hk] at serves
  | serving v job' cp =>
    rw [hk] at serves
    dsimp only at serves
    split at serves
    · rename_i same
      cases serves
      exact ⟨cp, found, same ▸ hk⟩
    · cases serves

/-- A window with a place has the one job that stands in its places. -/
theorem Part.jobOf_of_places {p : Part} {w : Win} {job : Job} (place : p.hasPlace w)
    (channels : ∀ c job' cp, (p.channel c).work = .serving w job' cp → job' = job)
    (entries : ∀ e ∈ p.copy.waiting, e.window = w → e.job = job) : p.jobOf w = some job := by
  unfold Part.jobOf
  cases hs : p.servedBy w with
  | some x =>
    obtain ⟨c, job', cp, found, serves⟩ := Part.servedBy_some_iff (p := p) (w := w) (by rw [hs]; nofun)
    cases hs.symm.trans found
    exact congrArg some (channels c job' cp serves)
  | none =>
    cases he : p.entryOf w with
    | none =>
      have free := Part.servedBy_none_iff.mp hs
      exact absurd place (not_or.mpr ⟨Part.entryOf_none_iff.mp he, not_exists.mpr free⟩)
    | some e =>
      have found := List.find?_some he
      exact congrArg some (entries e (List.mem_of_find?_eq_some he) (of_decide_eq_true found))

theorem ChannelWork.converted_job {k : ChannelWork} {w : Win} {job : Job} {cp : Option LineCopy}
    (h : k.converted w = .serving w job cp) : job = .retire := by
  cases k with
  | idle => cases h
  | draining v cp => cases h
  | serving v job' cp' =>
    simp only [ChannelWork.converted] at h
    split at h
    · cases h
      rfl
    · cases h
      contradiction

theorem ChannelWork.served_converted (k : ChannelWork) (w : Win) : (k.converted w).served? = k.served? := by
  cases k with
  | idle => rfl
  | draining v cp => rfl
  | serving v job cp =>
    simp only [ChannelWork.converted]
    split <;> rfl

theorem Part.convertToRetire_entry {p : Part} {w : Win} {e : WaitEntry} (he : e ∈ (p.convertToRetire w).copy.waiting)
    (same : e.window = w) : e.job = .retire := by
  by_cases h : p.copyStatus w = .none
  · rw [Part.convertToRetire_joins h] at he
    rcases List.mem_append.mp he with old | new
    · exact absurd (.inl (List.mem_map.mpr ⟨e, old, same⟩)) (Part.copyStatus_none_iff.mp h)
    · cases List.mem_singleton.mp new
      rfl
  · rw [Part.convertToRetire, if_neg h] at he
    obtain ⟨e', -, rfl⟩ := List.mem_map.mp he
    split at same
    · rw [if_pos (by assumption)]
    · contradiction

theorem Part.jobOf_convertToRetire (p : Part) (w : Win) : (p.convertToRetire w).jobOf w = some .retire := by
  have entries : ∀ e ∈ (p.convertToRetire w).copy.waiting, e.window = w → e.job = .retire :=
    fun e he => Part.convertToRetire_entry he
  by_cases h : p.copyStatus w = .none
  · have noPlace := Part.copyStatus_none_iff.mp h
    rw [Part.convertToRetire_joins h] at entries ⊢
    refine Part.jobOf_of_places (.inl ?_) (fun c job cp serves => ?_) entries
    · simp [Part.waitingWindows, Part.setWaiting]
    · exact absurd (.inr ⟨c, ChannelWork.served?_iff.mpr ⟨job, cp, serves⟩⟩) noPlace
  · have work := Part.work_converted h
    refine Part.jobOf_of_places ?_ (fun c job cp serves => ?_) entries
    · rcases not_not.mp (mt Part.copyStatus_none_iff.mpr h) with waits | ⟨c, served⟩
      · refine .inl ?_
        rw [Part.convertToRetire, if_neg h]
        obtain ⟨e, he, same⟩ := List.mem_map.mp waits
        exact List.mem_map.mpr ⟨{ e with job := .retire }, List.mem_map.mpr ⟨e, he, by rw [if_pos same]⟩, same⟩
      · exact .inr ⟨c, by rw [work, ChannelWork.served_converted]; exact served⟩
    · rw [work] at serves
      exact ChannelWork.converted_job serves

/-! ## The window that ends OFF -/

section
variable (p : Part) (w : Win)

theorem Part.endsOff_record : (p.endsOff w).record w = { p.record w with service := none } :=
  Part.record_setRecord_same ((p.removeTouches w true).drainWindow w) w _

theorem Part.endsOff_record_ne {v : Win} (h : v ≠ w) : (p.endsOff w).record v = p.record v :=
  Part.record_setRecord_ne ((p.removeTouches w true).drainWindow w) h _

theorem Part.endsOff_pending {x : Port} {k : Notice} (h : p.pending x w k) : (p.endsOff w).pending x w k :=
  Part.pending_noteBoth (p := ((p.removeTouches w true).drainWindow w).dropService w) h w .retired

theorem Part.endsOff_retired (x : Port) : (p.endsOff w).pending x w .retired :=
  Part.pending_noteBoth_same (((p.removeTouches w true).drainWindow w).dropService w) w .retired x

theorem Part.endsOff_queue : (p.endsOff w).copy.queue = p.copy.queue.filter (fun e => decide (e.window ≠ w)) := by
  change p.copy.queue.filter (fun e => decide (e.window ≠ w) || (e.inService && !true)) = _
  simp only [Bool.not_true, Bool.and_false, Bool.or_false]

theorem Part.endsOff_deferred : (p.endsOff w).copy.deferred = (p.removeTouches w true).copy.deferred := rfl

theorem Part.endsOff_work (c : Chan) : ((p.endsOff w).channel c).work = ((p.channel c).work).drained w :=
  Part.work_drainWindow (p.removeTouches w true) w c

theorem Part.endsOff_touch : (p.endsOff w).copy.touch.work = p.copy.touch.work.drained w := rfl

theorem Part.removeTouches_queue :
    (p.removeTouches w false).copy.queue = p.copy.queue.filter (fun e => decide (e.window ≠ w) || e.inService) := by
  change p.copy.queue.filter (fun e => decide (e.window ≠ w) || (e.inService && !false)) = _
  simp only [Bool.not_false, Bool.and_true]

end

theorem Part.channel_of_copy {p q : Part} (h : q.copy = p.copy) (c : Chan) : q.channel c = p.channel c := by
  rw [Part.channel, h]
  rfl

/-- A served window's job converts in place (R70, R93). -/
theorem Part.convertToRetire_serving {p : Part} {w : Win} {c : Chan} {job : Job} {cp : Option LineCopy}
    (serves : (p.channel c).work = .serving w job cp) : ((p.convertToRetire w).channel c).work = .serving w .retire cp := by
  have place : p.copyStatus w ≠ .none := fun none =>
    Part.copyStatus_none_iff.mp none (.inr ⟨c, ChannelWork.served?_iff.mpr ⟨job, cp, serves⟩⟩)
  rw [Part.work_converted place, serves]
  exact if_pos rfl

/-- Settles O37: the record and the notices, the touch entries, and the copy work, in both outcomes. -/
theorem retireOutcome : Obligations.RetireOutcome := by
  unfold Obligations.RetireOutcome
  intro p w sv hs live r stale q after home
  have homeIs : sv.goingHome = home := by
    unfold Service.goingHome
    dsimp only [home] <;> cases sv.ready <;> rfl
  have staleIs : sv.goingHome.stale.b0 = stale.b0 := by rw [Service.goingHome_stale]
  have afterIs : ∀ service, r.showing sv.ready service = after service := fun service => by
    dsimp only [after] <;> cases sv.ready <;> rfl
  have copy := Part.retireRecord_copy hs
  have record := Part.retireRecord_record hs
  have noted : sv.ready.isSome = true → (p.retireRecord w).pending sv.consumer w .imageReady := fun ready => by
    rw [Part.retireRecord_eq hs, Part.notesImage, if_pos ready]
    exact Part.pending_note_same p sv.consumer w .imageReady
  have others : ∀ v, v ≠ w → (p.retireRecord w).record v = p.record v := fun v h => Part.retireRecord_record_ne hs h
  have ended : stale.b0 = 0#64 → q = (p.retireRecord w).endsOff w := fun h => Part.retire_off hs (staleIs.trans h)
  have homeward : stale.b0 ≠ 0#64 → q = ((p.retireRecord w).removeTouches w false).convertToRetire w :=
    fun h => Part.retire_home hs (by rw [staleIs]; exact h)
  clear_value q
  generalize p.retireRecord w = left at *
  have channel := Part.channel_of_copy copy
  have records : ∀ v, ((left.removeTouches w false).convertToRetire w).record v = left.record v := fun v => by
    rw [Part.record, Part.convertToRetire_records]
    rfl
  obtain ⟨notices, queue, deferred, touch⟩ := Part.convertToRetire_keeps (left.removeTouches w false) w
  refine ⟨fun v other => ?_, fun ready => ?_, fun x line h => ?_, fun x v line ⟨h, other⟩ => ?_, fun off => ?_, fun on => ?_⟩
  · by_cases off : stale.b0 = 0#64
    · rw [ended off, Part.endsOff_record_ne left w other, others v other]
    · rw [homeward off, records, others v other]
  · by_cases off : stale.b0 = 0#64
    · rw [ended off]
      exact Part.endsOff_pending left w (noted ready)
    · rw [homeward off, notices]
      exact noted ready
  · rw [← copy] at h
    by_cases off : stale.b0 = 0#64
    · rw [ended off, Part.endsOff_deferred]
      exact Part.removeTouches_deferred h
    · rw [homeward off, deferred]
      exact Part.removeTouches_deferred h
  · rw [← copy] at h
    by_cases off : stale.b0 = 0#64
    · rw [ended off, Part.endsOff_deferred]
      exact Part.removeTouches_deferred_ne h other
    · rw [homeward off, deferred]
      exact Part.removeTouches_deferred_ne h other
  · rw [ended off]
    refine ⟨?_, Part.endsOff_retired left w, ?_, fun c job cp serves => ?_, fun c job serves => ?_, fun cp copying => ?_⟩
    · rw [Part.endsOff_record, record, ← afterIs]
      cases sv.ready <;> rfl
    · rw [Part.endsOff_queue, copy]
    · rw [Part.endsOff_work, channel, serves]
      exact if_pos rfl
    · rw [Part.endsOff_work, channel, serves]
      exact if_pos rfl
    · rw [Part.endsOff_touch, copy, copying]
      exact if_pos rfl
  · rw [homeward on]
    refine ⟨?_, Part.jobOf_convertToRetire _ w, ?_, fun c job cp serves => ?_, ?_⟩
    · rw [records, record, homeIs, afterIs]
    · rw [queue, Part.removeTouches_queue, copy]
    · exact Part.convertToRetire_serving (p := left.removeTouches w false) ((congrArg Channel.work (channel c)).trans serves)
    · rw [touch, ← copy]
      rfl

end Sys2Proof.Machine
end

section
/-!
A boundary reaches each window by itself (R113): what is done at one window leaves the others alone, and depends on the
window's own record, live descriptor and in-copy lines.
-/

namespace Sys2Proof.Machine

/-! ## What is done at one window leaves another alone -/

/-- The window's record, descriptor, in-copy lines and notices are as they were, and it has a place with the Copy Engine
where it had one. -/
structure Part.Untouched (w : Win) (p q : Part) : Prop where
  record : q.record w = p.record w
  live : q.liveOf w = p.liveOf w
  marks : q.inCopyLines w = p.inCopyLines w
  notices : ∀ x, (q.notices.get x).window[w] = (p.notices.get x).window[w]
  place : q.hasPlace w ↔ p.hasPlace w

section
variable {w v : Win}

theorem Part.Untouched.refl (p : Part) : Part.Untouched w p p := ⟨rfl, rfl, rfl, fun _ => rfl, .rfl⟩

theorem Part.Untouched.trans {p q r : Part} (h : Part.Untouched w p q) (k : Part.Untouched w q r) : Part.Untouched w p r :=
  ⟨k.record.trans h.record, k.live.trans h.live, k.marks.trans h.marks, fun x => (k.notices x).trans (h.notices x),
    k.place.trans h.place⟩

theorem Part.notices_note_ne (p : Part) (x y : Port) (other : v ≠ w) (k : Notice) :
    ((p.note x v k).notices.get y).window[w] = (p.notices.get y).window[w] := by
  have apart : v.val ≠ w.val := fun e => other (Fin.ext e)
  cases x <;> cases y <;> first | rfl | exact Vector.getElem_set_ne v.isLt w.isLt apart

theorem Part.untouched_note (p : Part) (x : Port) (other : v ≠ w) (k : Notice) : Part.Untouched w p (p.note x v k) :=
  ⟨rfl, rfl, rfl, fun y => p.notices_note_ne x y other k, .rfl⟩

theorem Part.untouched_noteBoth (p : Part) (other : v ≠ w) (k : Notice) : Part.Untouched w p (p.noteBoth v k) :=
  (p.untouched_note .a other k).trans (Part.untouched_note (p.note .a v k) .b other k)

theorem Part.untouched_setRecord (p : Part) (other : v ≠ w) (r : Record) : Part.Untouched w p (p.setRecord v r) :=
  ⟨p.record_setRecord_ne other.symm r, rfl, rfl, fun _ => rfl, .rfl⟩

theorem Part.untouched_clearRoleNotices (p : Part) (other : v ≠ w) (producer : Port) :
    Part.Untouched w p (p.clearRoleNotices v producer) := by
  have apart : v.val ≠ w.val := fun e => other (Fin.ext e)
  refine ⟨rfl, rfl, rfl, fun x => ?_, .rfl⟩
  cases x <;> exact Vector.getElem_set_ne v.isLt w.isLt apart

theorem Part.untouched_join (p : Part) (other : v ≠ w) (job : Job) : Part.Untouched w p (p.join v job) := by
  unfold Part.join
  split
  · refine ⟨rfl, rfl, rfl, fun _ => rfl, ?_⟩
    have : w ∈ (p.setWaiting (p.copy.waiting ++ [⟨v, job, false⟩])).waitingWindows ↔ w ∈ p.waitingWindows := by
      simp [Part.waitingWindows, Part.setWaiting, other.symm]
    exact or_congr this .rfl
  · exact .refl p

theorem Part.inCopyLines_of_marks {p q : Part} {w : Win}
    (channels : ∀ c, (q.channel c).work.mark w = (p.channel c).work.mark w)
    (touch : q.copy.touch.work.mark w = p.copy.touch.work.mark w) : q.inCopyLines w = p.inCopyLines w := by
  simp only [Part.inCopyLines, Part.channelMarks, channels, touch]

theorem ChannelWork.mark_drained (k : ChannelWork) (other : v ≠ w) : (k.drained v).mark w = k.mark w := by
  match k with
  | .idle => rfl
  | .draining u cp => rfl
  | .serving u job none =>
    by_cases h : u = v
    · subst h
      simp [ChannelWork.drained, ChannelWork.mark]
    · simp [ChannelWork.drained, h]
  | .serving u job (some cp) =>
    by_cases h : u = v
    · subst h
      simp [ChannelWork.drained, ChannelWork.mark, other]
    · simp [ChannelWork.drained, h]

theorem TouchWork.mark_drained (k : TouchWork) (other : v ≠ w) : (k.drained v).mark w = k.mark w := by
  cases k with
  | idle => rfl
  | draining u cp => rfl
  | copying u cp =>
    by_cases h : u = v
    · subst h
      simp [TouchWork.drained, TouchWork.mark, other]
    · simp [TouchWork.drained, h]

theorem ChannelWork.served_drained (k : ChannelWork) (other : v ≠ w) :
    (k.drained v).served? = some w ↔ k.served? = some w := by
  match k with
  | .idle => exact .rfl
  | .draining u cp => exact .rfl
  | .serving u job none =>
    by_cases h : u = v
    · subst h
      simp [ChannelWork.drained, ChannelWork.served?, other]
    · simp [ChannelWork.drained, h]
  | .serving u job (some cp) =>
    by_cases h : u = v
    · subst h
      simp [ChannelWork.drained, ChannelWork.served?, other]
    · simp [ChannelWork.drained, h]

theorem ChannelWork.mark_converted (k : ChannelWork) : (k.converted v).mark w = k.mark w := by
  match k with
  | .idle => rfl
  | .draining u cp => rfl
  | .serving u job none =>
    simp only [ChannelWork.converted]
    split <;> rfl
  | .serving u job (some cp) =>
    simp only [ChannelWork.converted]
    split <;> rfl

theorem Part.untouched_drainWindow (p : Part) (other : v ≠ w) : Part.Untouched w p (p.drainWindow v) := by
  refine ⟨rfl, rfl, ?_, fun _ => rfl, or_congr ?_ (exists_congr fun c => ?_)⟩
  · refine Part.inCopyLines_of_marks (fun c => ?_) (TouchWork.mark_drained _ other)
    rw [Part.work_drainWindow, ChannelWork.mark_drained _ other]
  · have back : ∀ e : WaitEntry, e.window = w → e.window ≠ v := fun e h => h ▸ other.symm
    simp only [Part.waitingWindows, Part.drainWindow, List.mem_map, List.mem_filter, decide_eq_true_iff]
    exact ⟨fun ⟨e, ⟨he, _⟩, same⟩ => ⟨e, he, same⟩, fun ⟨e, he, same⟩ => ⟨e, ⟨he, back e same⟩, same⟩⟩
  · rw [Part.work_drainWindow, ChannelWork.served_drained _ other]

theorem Part.untouched_endsOff (p : Part) (other : v ≠ w) : Part.Untouched w p (p.endsOff v) := by
  have removed : Part.Untouched w p (p.removeTouches v true) := ⟨rfl, rfl, rfl, fun _ => rfl, .rfl⟩
  exact ((removed.trans (Part.untouched_drainWindow _ other)).trans (Part.untouched_setRecord _ other _)).trans
    (Part.untouched_noteBoth _ other _)

theorem Part.untouched_convertToRetire (p : Part) (other : v ≠ w) : Part.Untouched w p (p.convertToRetire v) := by
  by_cases h : p.copyStatus v = .none
  · rw [Part.convertToRetire, if_pos h]
    exact p.untouched_join other _
  · have work := Part.work_converted h
    rw [Part.convertToRetire, if_neg h] at work ⊢
    refine ⟨rfl, rfl, Part.inCopyLines_of_marks (fun c => ?_) rfl, fun _ => rfl, or_congr ?_ (exists_congr fun c => ?_)⟩
    · rw [work, ChannelWork.mark_converted]
    · have windows : (fun e : WaitEntry => e.window) ∘ (fun e => if e.window = v then { e with job := .retire } else e) =
          fun e => e.window := by
        funext e
        simp only [Function.comp]
        split <;> rfl
      simp only [Part.waitingWindows, List.map_map, windows]
    · rw [work, ChannelWork.served_converted]

theorem Part.untouched_retire (p : Part) (other : v ≠ w) : Part.Untouched w p (p.retire v) := by
  cases hs : p.service v with
  | none =>
    have : p.retire v = p := by
      have record : p.retireRecord v = p := by
        have ended : p.endPin v = p := by rw [Part.endPin, hs]
        have flipped : p.flip v false = p := by rw [Part.flip, hs]
        rw [Part.retireRecord, ended, flipped]
        dsimp only
        rw [hs]
      rw [Part.retire, record, hs]
    rw [this]
    exact .refl p
  | some sv =>
    have record : Part.Untouched w p (p.retireRecord v) := by
      rw [Part.retireRecord_eq hs, Part.notesImage]
      split
      · exact (p.untouched_note _ other _).trans (Part.untouched_setRecord _ other _)
      · exact p.untouched_setRecord other _
    by_cases h : sv.goingHome.stale.b0 = 0#64
    · rw [Part.retire_off hs h]
      exact record.trans (Part.untouched_endsOff _ other)
    · rw [Part.retire_home hs h]
      have removed : Part.Untouched w (p.retireRecord v) ((p.retireRecord v).removeTouches v false) :=
        ⟨rfl, rfl, rfl, fun _ => rfl, .rfl⟩
      exact (record.trans removed).trans (Part.untouched_convertToRetire _ other)

theorem Part.untouched_release (p : Part) (other : v ≠ w) : Part.Untouched w p (p.release v) := by
  unfold Part.release
  split
  · exact .refl p
  · rename_i sv _
    have noted : Part.Untouched w p (if sv.ready.isSome then p.note sv.consumer v .dropped else p) := by
      split
      · exact p.untouched_note _ other _
      · exact .refl p
    have recorded := noted.trans (Part.untouched_setRecord _ other ((p.record v).released sv))
    dsimp only
    split
    · exact recorded.trans (Part.untouched_note _ _ other _)
    · exact recorded.trans (Part.untouched_join _ other _)

theorem Part.untouched_boundaryRelease (p : Part) (other : v ≠ w) : Part.Untouched w p (p.boundaryRelease v) := by
  unfold Part.boundaryRelease
  split
  · exact .refl p
  · split_ifs
    · exact .refl p
    · exact (p.untouched_note _ other _).trans (Part.untouched_setRecord _ other _)
    · exact .refl p
    · exact p.untouched_release other

theorem Part.untouched_endPin (p : Part) (other : v ≠ w) : Part.Untouched w p (p.endPin v) := by
  unfold Part.endPin
  split
  · exact .refl p
  · exact p.untouched_setRecord other _

theorem Part.untouched_flip (p : Part) (other : v ≠ w) (late : Bool) : Part.Untouched w p (p.flip v late) := by
  unfold Part.flip
  split
  · exact .refl p
  · split
    · exact .refl p
    · exact (p.untouched_setRecord other _).trans (Part.untouched_note _ _ other _)

theorem Part.untouched_boundaryPin (p : Part) (other : v ≠ w) : Part.Untouched w p (p.boundaryPin v) := by
  unfold Part.boundaryPin
  split
  · exact .refl p
  · split
    · exact .refl p
    · split_ifs
      · exact (p.untouched_endPin other).trans (Part.untouched_note _ _ other _)
      · exact p.untouched_setRecord other _

theorem Part.untouched_boundaryFlip (p : Part) (other : v ≠ w) : Part.Untouched w p (p.boundaryFlip v) := by
  unfold Part.boundaryFlip
  split
  · exact .refl p
  · split_ifs
    · exact (p.untouched_setRecord other _).trans (Part.untouched_setRecord _ other _)
    · exact p.untouched_flip other false
    · exact p.untouched_setRecord other _

theorem Part.untouched_handleBoundary (p : Part) (other : v ≠ w) : Part.Untouched w p (p.handleBoundary v) :=
  ((p.untouched_boundaryRelease other).trans (Part.untouched_boundaryPin _ other)).trans
    (Part.untouched_boundaryFlip _ other)

theorem Part.untouched_enable (p : Part) (other : v ≠ w) : Part.Untouched w p (p.enable v) :=
  ((p.untouched_setRecord other _).trans (Part.untouched_clearRoleNotices _ other _)).trans (Part.untouched_join _ other _)

theorem Part.untouched_windowAtBoundary (p : Part) (applied : Bool) (other : v ≠ w) :
    Part.Untouched w p (p.windowAtBoundary applied v) := by
  have ended : Part.Untouched w p (p.endPinByApply v) := by
    unfold Part.endPinByApply
    split
    · exact p.untouched_endPin other
    · exact .refl p
  unfold Part.windowAtBoundary
  split
  · split_ifs
    · exact p.untouched_enable other
    · exact .refl p
  · split_ifs
    · exact .refl p
    · exact ended.trans (Part.untouched_handleBoundary _ other)
    · exact p.untouched_retire other
    · exact p.untouched_handleBoundary other

end

/-- The windows of a list one after another, as a boundary does. -/
def Part.windowsAtBoundary (p : Part) (applied : BitVec 16) (l : List Win) : Part :=
  l.foldl (fun q w => q.windowAtBoundary (applied.getLsbD w.val) w) p

theorem Part.deliverBoundary_eq (p : Part) :
    p.deliverBoundary = p.applyAttempt.1.windowsAtBoundary p.applyAttempt.2 allWindows := rfl

theorem Part.untouched_windowsAtBoundary {w : Win} (applied : BitVec 16) (l : List Win) :
    ∀ p : Part, w ∉ l → Part.Untouched w p (p.windowsAtBoundary applied l) := by
  induction l with
  | nil => exact fun p _ => .refl p
  | cons v rest ih =>
    intro p absent
    obtain ⟨first, later⟩ := not_or.mp (mt List.mem_cons.mpr absent)
    exact (p.untouched_windowAtBoundary _ (Ne.symm first)).trans (ih _ later)

theorem allWindows_around (w : Win) :
    ∃ before after, allWindows = before ++ w :: after ∧ w ∉ before ∧ w ∉ after := by
  obtain ⟨before, after, split⟩ := List.append_of_mem (mem_allWindows w)
  have once : (before ++ w :: after).Nodup := split ▸ by decide
  obtain ⟨-, tail, apart⟩ := List.nodup_append.mp once
  exact ⟨before, after, split, fun h => apart w h w List.mem_cons_self rfl, (List.nodup_cons.mp tail).1⟩

/-- The windows before one, the window, the windows after it: only the middle step reaches it. -/
theorem Part.windowsAtBoundary_around (p : Part) (applied : BitVec 16) (w : Win) :
    ∃ (q : Part) (after : List Win), Part.Untouched w p q ∧ w ∉ after ∧
      p.windowsAtBoundary applied allWindows =
        (q.windowAtBoundary (applied.getLsbD w.val) w).windowsAtBoundary applied after := by
  obtain ⟨before, after, split, first, later⟩ := allWindows_around w
  refine ⟨p.windowsAtBoundary applied before, after, Part.untouched_windowsAtBoundary applied before p first, later, ?_⟩
  rw [split]
  exact List.foldl_append

end Sys2Proof.Machine
end

section
/-!
A window's boundary handling is a matter of its own record, descriptor and in-copy lines (R57, R113, R131).
-/

namespace Sys2Proof.Machine

/-- Two parts agree at the window in what its boundary handling looks at. -/
structure Part.SameAt (w : Win) (p q : Part) : Prop where
  record : q.record w = p.record w
  live : q.liveOf w = p.liveOf w
  marks : q.inCopyLines w = p.inCopyLines w

section
variable {w : Win} {p q r p' q' : Part}

theorem Part.Untouched.same (h : Part.Untouched w p q) : Part.SameAt w p q := ⟨h.record, h.live, h.marks⟩

theorem Part.SameAt.service (h : Part.SameAt w p q) : q.service w = p.service w := congrArg Record.service h.record

/-- Agreement carries over to parts that agree with the two. -/
theorem Part.SameAt.along (h : Part.SameAt w p q) (left : Part.SameAt w p p') (right : Part.SameAt w q q') :
    Part.SameAt w p' q' :=
  ⟨right.record.trans (h.record.trans left.record.symm), right.live.trans (h.live.trans left.live.symm),
    right.marks.trans (h.marks.trans left.marks.symm)⟩

theorem Part.sameAt_note (p : Part) (x : Port) (v : Win) (k : Notice) : Part.SameAt w p (p.note x v k) := ⟨rfl, rfl, rfl⟩

theorem Part.sameAt_join (p : Part) (v : Win) (job : Job) : Part.SameAt w p (p.join v job) := by
  unfold Part.join
  split <;> exact ⟨rfl, rfl, rfl⟩

theorem Part.SameAt.note (h : Part.SameAt w p q) (x : Port) (v : Win) (k : Notice) :
    Part.SameAt w (p.note x v k) (q.note x v k) := h.along (p.sameAt_note x v k) (q.sameAt_note x v k)

theorem Part.SameAt.join (h : Part.SameAt w p q) (v : Win) (job : Job) : Part.SameAt w (p.join v job) (q.join v job) :=
  h.along (p.sameAt_join v job) (q.sameAt_join v job)

theorem Part.SameAt.setRecord (h : Part.SameAt w p q) (r : Record) : Part.SameAt w (p.setRecord w r) (q.setRecord w r) :=
  ⟨by rw [Part.record_setRecord_same, Part.record_setRecord_same], h.live, h.marks⟩

theorem Part.SameAt.setService (h : Part.SameAt w p q) (sv : Service) :
    Part.SameAt w (p.setService w sv) (q.setService w sv) := by
  rw [Part.setService, Part.setService, h.record]
  exact h.setRecord _

theorem Part.SameAt.release (h : Part.SameAt w p q) : Part.SameAt w (p.release w) (q.release w) := by
  unfold Part.release
  rw [h.service, h.record]
  cases p.service w with
  | none => exact h
  | some sv =>
    have noted : Part.SameAt w (if sv.ready.isSome then p.note sv.consumer w .dropped else p)
        (if sv.ready.isSome then q.note sv.consumer w .dropped else q) := by
      split
      · exact h.note _ _ _
      · exact h
    dsimp only
    split
    · exact (noted.setRecord _).note _ _ _
    · exact (noted.setRecord _).join _ _

theorem Part.SameAt.boundaryRelease (h : Part.SameAt w p q) : Part.SameAt w (p.boundaryRelease w) (q.boundaryRelease w) := by
  unfold Part.boundaryRelease Part.caughtUp
  rw [h.service, h.live, h.marks]
  cases p.service w with
  | none => exact h
  | some sv =>
    dsimp only
    split_ifs
    · exact h
    · exact (h.note _ _ _).setService _
    · exact h
    · exact h.release

theorem Part.SameAt.endPin (h : Part.SameAt w p q) : Part.SameAt w (p.endPin w) (q.endPin w) := by
  unfold Part.endPin
  rw [h.service]
  cases p.service w with
  | none => exact h
  | some sv => exact h.setService _

theorem Part.SameAt.flip (h : Part.SameAt w p q) (late : Bool) : Part.SameAt w (p.flip w late) (q.flip w late) := by
  unfold Part.flip
  rw [h.service, h.record]
  cases p.service w with
  | none => exact h
  | some sv =>
    dsimp only
    cases sv.ready with
    | none => exact h
    | some image => exact (h.setRecord _).note _ _ _

theorem Part.SameAt.ageStep (h : Part.SameAt w p q) : Part.SameAt w (p.ageStep w) (q.ageStep w) := by
  unfold Part.ageStep
  rw [h.record]
  exact h.setRecord _

theorem Part.SameAt.boundaryPin (h : Part.SameAt w p q) : Part.SameAt w (p.boundaryPin w) (q.boundaryPin w) := by
  unfold Part.boundaryPin
  rw [h.service, h.live]
  cases p.service w with
  | none => exact h
  | some sv =>
    dsimp only
    cases sv.pin with
    | none => exact h
    | some age =>
      dsimp only
      split_ifs
      · exact h.endPin.note _ _ _
      · exact h.setService _

theorem Part.SameAt.boundaryFlip (h : Part.SameAt w p q) : Part.SameAt w (p.boundaryFlip w) (q.boundaryFlip w) := by
  unfold Part.boundaryFlip
  rw [h.service]
  cases p.service w with
  | none => exact h
  | some sv =>
    dsimp only
    split_ifs
    · exact (h.setService _).ageStep
    · exact h.flip false
    · exact h.ageStep

theorem Part.SameAt.handleBoundary (h : Part.SameAt w p q) : Part.SameAt w (p.handleBoundary w) (q.handleBoundary w) :=
  h.boundaryRelease.boundaryPin.boundaryFlip

/-- The record of a retired window (R68 to R70). -/
theorem Part.retire_record {sv : Service} (hs : p.service w = some sv) :
    (p.retire w).record w = (p.record w).showing sv.ready
      (if sv.goingHome.stale.b0 = 0#64 then none else some sv.goingHome) := by
  by_cases h : sv.goingHome.stale.b0 = 0#64
  · rw [Part.retire_off hs h, Part.endsOff_record, Part.retireRecord_record hs, if_pos h]
    cases sv.ready <;> rfl
  · rw [Part.retire_home hs h, if_neg h, ← Part.retireRecord_record hs, Part.record, Part.convertToRetire_records]
    rfl

theorem Part.enable_record (p : Part) (w : Win) : (p.enable w).record w = .setUp (p.liveOf w) := by
  have : ((p.setRecord w (Record.enabled (p.liveOf w))).clearRoleNotices w (p.liveOf w).producer).record w =
      Record.enabled (p.liveOf w) := Part.record_setRecord_same p w _
  rw [Part.enable, Part.record, Part.join_records]
  exact this

/-! ## A window at a boundary, case by case -/

theorem Part.windowAtBoundary_enables {applied : Bool} (hs : p.service w = none)
    (enables : applied = true ∧ (p.liveOf w).enable = true) : p.windowAtBoundary applied w = p.enable w := by
  rw [Part.windowAtBoundary, hs]
  dsimp only
  rw [enables.1, enables.2]
  rfl

theorem Part.windowAtBoundary_off {applied : Bool} (hs : p.service w = none)
    (stays : applied = false ∨ (p.liveOf w).enable = false) : p.windowAtBoundary applied w = p := by
  have no : (applied && (p.liveOf w).enable) = false := by
    rcases stays with h | h <;> simp [h]
  rw [Part.windowAtBoundary, hs]
  dsimp only
  rw [no]
  rfl

section
variable {sv : Service} {applied : Bool}

theorem Part.windowAtBoundary_retiring (hs : p.service w = some sv) (retiring : sv.retiring = true) :
    p.windowAtBoundary applied w = p := by
  rw [Part.windowAtBoundary, hs]
  dsimp only
  rw [if_pos retiring]

theorem Part.windowAtBoundary_unapplied (hs : p.service w = some sv) (live : sv.retiring = false)
    (unapplied : applied = false) : p.windowAtBoundary applied w = p.handleBoundary w := by
  rw [Part.windowAtBoundary, hs]
  dsimp only
  rw [live, unapplied]
  rfl

theorem Part.windowAtBoundary_retires (hs : p.service w = some sv) (live : sv.retiring = false)
    (retires : applied = true ∧ (p.liveOf w).enable = false) : p.windowAtBoundary applied w = p.retire w := by
  rw [Part.windowAtBoundary, hs]
  dsimp only
  rw [live, retires.1, retires.2]
  rfl

theorem Part.windowAtBoundary_applied (hs : p.service w = some sv) (live : sv.retiring = false)
    (enabled : applied = true ∧ (p.liveOf w).enable = true) :
    p.windowAtBoundary applied w = (p.endPinByApply w).handleBoundary w := by
  rw [Part.windowAtBoundary, hs]
  dsimp only
  rw [live, enabled.1, enabled.2]
  rfl

end

theorem Part.SameAt.endPinByApply (h : Part.SameAt w p q) : Part.SameAt w (p.endPinByApply w) (q.endPinByApply w) := by
  unfold Part.endPinByApply
  rw [h.live]
  split
  · exact h.endPin
  · exact h

theorem Part.SameAt.windowAtBoundary (h : Part.SameAt w p q) (applied : Bool) :
    (q.windowAtBoundary applied w).record w = (p.windowAtBoundary applied w).record w := by
  cases hs : p.service w with
  | none =>
    have hs' := h.service.trans hs
    by_cases enables : applied = true ∧ (p.liveOf w).enable = true
    · rw [Part.windowAtBoundary_enables hs enables, Part.windowAtBoundary_enables hs' (h.live ▸ enables),
        Part.enable_record, Part.enable_record, h.live]
    · have stays : applied = false ∨ (p.liveOf w).enable = false := by
        simpa [-not_and, not_and_or] using enables
      rw [Part.windowAtBoundary_off hs stays, Part.windowAtBoundary_off hs' (h.live ▸ stays), h.record]
  | some sv =>
    have hs' := h.service.trans hs
    cases retiring : sv.retiring with
    | true => rw [Part.windowAtBoundary_retiring hs retiring, Part.windowAtBoundary_retiring hs' retiring, h.record]
    | false =>
      cases applied with
      | false =>
        rw [Part.windowAtBoundary_unapplied hs retiring rfl, Part.windowAtBoundary_unapplied hs' retiring rfl,
          h.handleBoundary.record]
      | true =>
        cases enable : (p.liveOf w).enable with
        | true =>
          rw [Part.windowAtBoundary_applied hs retiring ⟨rfl, enable⟩,
            Part.windowAtBoundary_applied hs' retiring ⟨rfl, h.live ▸ enable⟩, h.endPinByApply.handleBoundary.record]
        | false =>
          rw [Part.windowAtBoundary_retires hs retiring ⟨rfl, enable⟩,
            Part.windowAtBoundary_retires hs' retiring ⟨rfl, h.live ▸ enable⟩, Part.retire_record hs,
            Part.retire_record hs', h.record]

end

/-- The record a boundary leaves is the one it leaves at the window alone (R113). -/
theorem Part.deliverBoundary_record (p : Part) (w : Win) :
    p.deliverBoundary.record w =
      (p.applyAttempt.1.windowAtBoundary (p.applyAttempt.2.getLsbD w.val) w).record w := by
  obtain ⟨q, after, before, later, whole⟩ := p.applyAttempt.1.windowsAtBoundary_around p.applyAttempt.2 w
  rw [Part.deliverBoundary_eq, whole, (Part.untouched_windowsAtBoundary _ after _ later).record,
    before.same.windowAtBoundary]

/-- Settles O32: only the window's own step reaches it; its outcomes, case by case. -/
theorem boundaryReachesEachWindow : Obligations.BoundaryReachesEachWindow := by
  unfold Obligations.BoundaryReachesEachWindow
  intro p w q applied d after
  have records : q.records = p.records := p.applyAttempt_keeps.1
  have record : q.record w = p.record w := by rw [Part.record, records]; rfl
  have service : q.service w = p.service w := Part.service_of_records records w
  have own : after = (q.windowAtBoundary applied w).record w := p.deliverBoundary_record w
  rw [own]
  refine ⟨fun off => ?_, fun sv hs => ?_⟩
  · have hs : q.service w = none := service.trans off
    refine ⟨fun enables => ?_, fun stays => ?_⟩
    · rw [Part.windowAtBoundary_enables hs enables, Part.enable_record]
      rfl
    · rw [Part.windowAtBoundary_off hs stays, record]
  · have hs : q.service w = some sv := service.trans hs
    refine ⟨fun retiring => ?_, fun live => ⟨fun no => ?_, fun retires => ?_, fun enabled => ⟨fun ⟨limit, tags⟩ => ?_,
      fun ends => ?_⟩⟩⟩
    · rw [Part.windowAtBoundary_retiring hs retiring, record]
    · rw [Part.windowAtBoundary_unapplied hs live no]
    · rw [Part.windowAtBoundary_retires hs live retires]
    · have pinned : q.endPinByApply w = q := by
        have no : ((q.liveOf w).pinLimit = 0 || !(q.liveOf w).tags) = false := by
          have limited : (q.liveOf w).pinLimit ≠ 0 := Nat.ne_of_gt limit
          simp [show (q.liveOf w).tags = true from tags, limited]
        rw [Part.endPinByApply, no]
        rfl
      rw [Part.windowAtBoundary_applied hs live enabled, pinned]
    · have unpinned : q.endPinByApply w = q.setService w { sv with pin := none } := by
        have yes : ((q.liveOf w).pinLimit = 0 || !(q.liveOf w).tags) = true := by
          rcases ends with h | h
          · simp [show (q.liveOf w).pinLimit = 0 from h]
          · simp [show (q.liveOf w).tags = false from h]
        rw [Part.endPinByApply, if_pos yes, Part.endPin_eq hs]
      rw [Part.windowAtBoundary_applied hs live enabled, unpinned]

end Sys2Proof.Machine
end

section
/-!
A boundary at the waiting list and at the notices of the windows it enables (R83, R150).
-/

namespace Sys2Proof.Machine

/-! ## The waiting list at one window's step -/

/-- What a boundary does to the waiting list at one window: nothing, the window joins, its entry goes, or its job becomes
RETIRE. -/
inductive WaitStep (v : Win) (l : List WaitEntry) : List WaitEntry → Prop where
  | stays : WaitStep v l l
  | joins (job : Job) : WaitStep v l (l ++ [⟨v, job, false⟩])
  | leaves : WaitStep v l (l.filter (fun e => e.window ≠ v))
  | converts : WaitStep v l (l.map (fun e => if e.window = v then { e with job := .retire } else e))

theorem WaitStep.of_eq {v : Win} {l l' : List WaitEntry} (h : l' = l) : WaitStep v l l' := h ▸ .stays

theorem Part.join_waitStep (p : Part) (v : Win) (job : Job) : WaitStep v p.copy.waiting (p.join v job).copy.waiting := by
  unfold Part.join
  split
  · exact .joins job
  · exact .stays

theorem Part.flip_copy (p : Part) (v : Win) (late : Bool) : (p.flip v late).copy = p.copy := by
  unfold Part.flip
  split
  · rfl
  · split <;> rfl

theorem Part.endPin_copy (p : Part) (v : Win) : (p.endPin v).copy = p.copy := by
  unfold Part.endPin
  split <;> rfl

theorem Part.pinAndFlip_copy (p : Part) (v : Win) : (p.pinAndFlip v).copy = p.copy := by
  have pin : (p.boundaryPin v).copy = p.copy := by
    unfold Part.boundaryPin
    split
    · rfl
    · split
      · rfl
      · split_ifs
        · exact p.endPin_copy v
        · rfl
  rw [← pin, Part.pinAndFlip]
  generalize p.boundaryPin v = q
  unfold Part.boundaryFlip
  split
  · rfl
  · split_ifs
    · rfl
    · exact q.flip_copy v false
    · rfl

theorem Part.release_waitStep (p : Part) (v : Win) : WaitStep v p.copy.waiting (p.release v).copy.waiting := by
  unfold Part.release
  split
  · exact .stays
  · rename_i sv _
    have noted : (if sv.ready.isSome then p.note sv.consumer v .dropped else p).copy = p.copy := by
      split <;> rfl
    dsimp only
    split
    · exact .of_eq (congrArg CopyEngine.waiting noted)
    · have joins := ((if sv.ready.isSome then p.note sv.consumer v .dropped else p).setRecord v
        ((p.record v).released sv)).join_waitStep v .catchUp
      rw [Part.setRecord_copy, noted] at joins
      exact joins

theorem Part.handleBoundary_waitStep (p : Part) (v : Win) :
    WaitStep v p.copy.waiting (p.handleBoundary v).copy.waiting := by
  rw [Part.handleBoundary_eq, Part.pinAndFlip_copy]
  unfold Part.boundaryRelease
  split
  · exact .stays
  · split_ifs
    · exact .stays
    · exact .stays
    · exact .stays
    · exact p.release_waitStep v

theorem Part.convertToRetire_waitStep (p : Part) (v : Win) :
    WaitStep v p.copy.waiting (p.convertToRetire v).copy.waiting := by
  unfold Part.convertToRetire
  split
  · exact p.join_waitStep v _
  · exact .converts

theorem Part.retire_waitStep {p : Part} {v : Win} {sv : Service} (hs : p.service v = some sv) :
    WaitStep v p.copy.waiting (p.retire v).copy.waiting := by
  have copy := Part.retireRecord_copy hs
  by_cases h : sv.goingHome.stale.b0 = 0#64
  · rw [Part.retire_off hs h, ← copy]
    generalize p.retireRecord v = q
    exact .leaves
  · have step := ((p.retireRecord v).removeTouches v false).convertToRetire_waitStep v
    rw [Part.retire_home hs h, ← copy]
    generalize p.retireRecord v = q at *
    exact step

theorem Part.windowAtBoundary_waitStep (p : Part) (applied : Bool) (v : Win) :
    WaitStep v p.copy.waiting (p.windowAtBoundary applied v).copy.waiting := by
  have ended : (p.endPinByApply v).copy = p.copy := by
    unfold Part.endPinByApply
    split
    · exact p.endPin_copy v
    · rfl
  unfold Part.windowAtBoundary
  split
  · split_ifs
    · exact ((p.setRecord v _).clearRoleNotices v _).join_waitStep v .catchUp
    · exact .stays
  · split_ifs
    · exact .stays
    · rw [← ended]
      exact Part.handleBoundary_waitStep _ v
    · exact Part.retire_waitStep (by assumption)
    · exact p.handleBoundary_waitStep v

/-! ## The waiting list after a boundary -/

/-- The list is what was kept of `old`, in its order, and behind it the windows that joined, not promoted, in ascending
number, each below every window of `rest`. -/
structure JoinedBehind (old : List WaitEntry) (rest : List Win) (l kept joined : List WaitEntry) : Prop where
  split : l = kept ++ joined
  order : (kept.map WaitEntry.place).Sublist (old.map WaitEntry.place)
  tail : ∀ e ∈ joined, e.promoted = false
  ascending : (joined.map (fun e => e.window)).Pairwise (fun v w => v.val < w.val)
  below : ∀ e ∈ joined, ∀ v ∈ rest, e.window.val < v.val

theorem JoinedBehind.step {old : List WaitEntry} {v : Win} {rest : List Win} {l l' kept joined : List WaitEntry}
    (h : JoinedBehind old (v :: rest) l kept joined) (before : ∀ u ∈ rest, v.val < u.val) (s : WaitStep v l l') :
    ∃ kept' joined', JoinedBehind old rest l' kept' joined' := by
  obtain ⟨rfl, order, tail, ascending, below⟩ := h
  have later : ∀ e ∈ joined, ∀ u ∈ rest, e.window.val < u.val := fun e he u hu => below e he u (List.mem_cons_of_mem _ hu)
  cases s with
  | stays => exact ⟨kept, joined, rfl, order, tail, ascending, later⟩
  | joins job =>
    refine ⟨kept, joined ++ [⟨v, job, false⟩], List.append_assoc _ _ _, order, fun e he => ?_, ?_, fun e he u hu => ?_⟩
    · rcases List.mem_append.mp he with h | h
      · exact tail e h
      · cases List.mem_singleton.mp h
        rfl
    · rw [List.map_append, List.pairwise_append]
      refine ⟨ascending, List.pairwise_singleton _ _, fun a ha b hb => ?_⟩
      obtain ⟨e, he, rfl⟩ := List.mem_map.mp ha
      cases List.mem_singleton.mp hb
      exact below e he v List.mem_cons_self
    · rcases List.mem_append.mp he with h | h
      · exact later e h u hu
      · cases List.mem_singleton.mp h
        exact before u hu
  | leaves =>
    refine ⟨_, _, List.filter_append _ _, (List.filter_sublist.map _).trans order,
      fun e he => tail e (List.mem_of_mem_filter he), ascending.sublist (List.filter_sublist.map _),
      fun e he => later e (List.mem_of_mem_filter he)⟩
  | converts =>
    have windows : ∀ e : WaitEntry, (if e.window = v then { e with job := .retire } else e).place = e.place := fun e => by
      split <;> rfl
    have place : WaitEntry.place ∘ (fun e : WaitEntry => if e.window = v then { e with job := .retire } else e) =
        WaitEntry.place := funext windows
    have window : (fun e : WaitEntry => e.window) ∘
        (fun e : WaitEntry => if e.window = v then { e with job := .retire } else e) = fun e => e.window :=
      funext fun e => congrArg Prod.fst (windows e)
    refine ⟨_, _, List.map_append, ?_, fun e he => ?_, ?_, fun e he u hu => ?_⟩
    · rw [List.map_map, place]
      exact order
    · obtain ⟨x, hx, rfl⟩ := List.mem_map.mp he
      exact (congrArg Prod.snd (windows x)).trans (tail x hx)
    · rw [List.map_map, window]
      exact ascending
    · obtain ⟨x, hx, rfl⟩ := List.mem_map.mp he
      have same : (if x.window = v then { x with job := .retire } else x).window = x.window := congrArg Prod.fst (windows x)
      rw [same]
      exact later x hx u hu

theorem Part.windowsAtBoundary_waiting (old : List WaitEntry) (applied : BitVec 16) (l : List Win) :
    ∀ (p : Part) (kept joined : List WaitEntry), l.Pairwise (fun v w => v.val < w.val) →
      JoinedBehind old l p.copy.waiting kept joined →
      ∃ kept' joined', JoinedBehind old [] (p.windowsAtBoundary applied l).copy.waiting kept' joined' := by
  induction l with
  | nil => exact fun p kept joined _ h => ⟨kept, joined, h⟩
  | cons v rest ih =>
    intro p kept joined ordered h
    obtain ⟨before, tail⟩ := List.pairwise_cons.mp ordered
    obtain ⟨kept', joined', h'⟩ := h.step before (p.windowAtBoundary_waitStep (applied.getLsbD v.val) v)
    exact ih _ kept' joined' tail h'

/-- An entry of a window stays at another window's step. -/
theorem WaitStep.mem {v : Win} {l l' : List WaitEntry} (s : WaitStep v l l') {e : WaitEntry} (he : e ∈ l)
    (other : e.window ≠ v) : e ∈ l' := by
  cases s with
  | stays => exact he
  | joins job => exact List.mem_append_left _ he
  | leaves => exact List.mem_filter.mpr ⟨he, decide_eq_true other⟩
  | converts => exact List.mem_map.mpr ⟨e, he, if_neg other⟩

theorem Part.windowsAtBoundary_mem (applied : BitVec 16) (l : List Win) {e : WaitEntry} :
    ∀ p : Part, e.window ∉ l → e ∈ p.copy.waiting → e ∈ (p.windowsAtBoundary applied l).copy.waiting := by
  induction l with
  | nil => exact fun p _ h => h
  | cons v rest ih =>
    intro p absent he
    obtain ⟨first, later⟩ := not_or.mp (mt List.mem_cons.mpr absent)
    exact ih _ later ((p.windowAtBoundary_waitStep _ v).mem he first)

/-! ## An enable -/

theorem roleKeeps_producer (n : NoticeSet) :
    NoticeSet.drop (NoticeSet.drop (NoticeSet.drop n .imageReady) .dropped) .pinExpired = roleKeeps true n := by
  revert n
  decide

theorem roleKeeps_consumer (n : NoticeSet) :
    NoticeSet.drop (NoticeSet.drop n .backReady) .overrun = roleKeeps false n := by
  revert n
  decide

theorem NoticeUnit.clearRole_window (n : NoticeUnit) (w : Win) (producer : Bool) :
    (n.clearRole w producer).window[w] = roleKeeps producer n.window[w] := by
  cases producer
  · exact (Vector.getElem_set_self w.isLt).trans (roleKeeps_consumer _)
  · exact (Vector.getElem_set_self w.isLt).trans (roleKeeps_producer _)

theorem Part.clearRoleNotices_window (p : Part) (w : Win) (producer x : Port) :
    ((p.clearRoleNotices w producer).notices.get x).window[w] =
      roleKeeps (decide (producer = x)) (p.notices.get x).window[w] := by
  cases x <;> exact NoticeUnit.clearRole_window _ _ _

theorem Part.join_notices (p : Part) (w : Win) (job : Job) : (p.join w job).notices = p.notices := by
  unfold Part.join
  split <;> rfl

theorem Part.enable_notices (p : Part) (w : Win) (x : Port) :
    ((p.enable w).notices.get x).window[w] =
      roleKeeps (decide ((p.liveOf w).producer = x)) (p.notices.get x).window[w] := by
  rw [Part.enable, Part.join_notices, Part.clearRoleNotices_window]
  rfl

theorem Part.enable_waiting {p : Part} {w : Win} (noPlace : ¬ p.hasPlace w) :
    (⟨w, .catchUp, false⟩ : WaitEntry) ∈ (p.enable w).copy.waiting := by
  have none : ((p.setRecord w (Record.enabled (p.liveOf w))).clearRoleNotices w (p.liveOf w).producer).copyStatus w =
      .none := (Part.copyStatus_congr (p := p) rfl w).trans (Part.copyStatus_none_iff.mpr noPlace)
  rw [Part.enable, Part.join, if_pos none]
  exact List.mem_append_right _ (List.mem_singleton_self _)

theorem Part.applyAttempt_window (p : Part) (w : Win) (x : Port) :
    (p.applyAttempt.1.notices.get x).window[w] = (p.notices.get x).window[w] := by
  have noted : ∀ (q : Part) (k : GlobalNotice), ((q.noteGlobal k).notices.get x).window[w] = (q.notices.get x).window[w] := by
    intro q k
    have unit : ∀ n : NoticeUnit, (n.recordGlobal k).window = n.window := fun n => by
      unfold NoticeUnit.recordGlobal
      split <;> rfl
    cases x
    · exact congrArg (fun v : Vector NoticeSet 16 => v[w]) (unit q.notices.a)
    · exact congrArg (fun v : Vector NoticeSet 16 => v[w]) (unit q.notices.b)
  rcases p.applyAttempt_cases with h | h | h
  · rw [h]
  · rw [h]
    exact noted _ _
  · rw [h]
    exact noted _ _

/-- A window that a boundary enables joins where it has no place, and its role's notices alone are kept. -/
theorem Part.windowsAtBoundary_enables {p : Part} {applied : BitVec 16} {w : Win} (off : p.service w = none)
    (marked : applied.getLsbD w.val = true) (enable : (p.liveOf w).enable = true) :
    (¬ p.hasPlace w → (⟨w, .catchUp, false⟩ : WaitEntry) ∈ (p.windowsAtBoundary applied allWindows).copy.waiting) ∧
      ∀ x, ((p.windowsAtBoundary applied allWindows).notices.get x).window[w] =
        roleKeeps (decide ((p.liveOf w).producer = x)) (p.notices.get x).window[w] := by
  obtain ⟨r, after, before, later, whole⟩ := p.windowsAtBoundary_around applied w
  have step : r.windowAtBoundary (applied.getLsbD w.val) w = r.enable w :=
    Part.windowAtBoundary_enables (before.same.service.trans off) ⟨marked, by rw [before.live]; exact enable⟩
  rw [whole, step]
  refine ⟨fun noPlace => ?_, fun x => ?_⟩
  · exact Part.windowsAtBoundary_mem _ after (r.enable w) later (Part.enable_waiting (mt before.place.mp noPlace))
  · rw [(Part.untouched_windowsAtBoundary _ after _ later).notices, Part.enable_notices, before.notices, before.live]

/-- Settles O33: the joins of the fold in order; at an enabled window, what its own step leaves. -/
theorem enableAtBoundaryJoinsAndClearsNotices : Obligations.EnableAtBoundaryJoinsAndClearsNotices := by
  unfold Obligations.EnableAtBoundaryJoinsAndClearsNotices
  intro p
  obtain ⟨records, -, -, -, -, copy, -⟩ := p.applyAttempt_keeps
  have start : JoinedBehind p.copy.waiting allWindows p.applyAttempt.1.copy.waiting p.copy.waiting [] :=
    ⟨by rw [copy, List.append_nil], .refl _, nofun, List.Pairwise.nil, nofun⟩
  obtain ⟨kept, joined, split, order, tail, ascending, -⟩ :=
    Part.windowsAtBoundary_waiting p.copy.waiting p.applyAttempt.2 allWindows _ _ _ (by decide) start
  have notices := p.applyAttempt_window
  have enables := fun w off => Part.windowsAtBoundary_enables (p := p.applyAttempt.1) (applied := p.applyAttempt.2) (w := w) off
  rw [Part.deliverBoundary_eq]
  generalize p.applyAttempt.1.windowsAtBoundary p.applyAttempt.2 allWindows = q at *
  refine ⟨kept, joined, split, order, tail, ascending, fun w hw => ?_⟩
  intro d enable
  obtain ⟨off, marked⟩ := hw
  obtain ⟨joins, keeps⟩ := enables w ((Part.service_of_records records w).trans off) marked enable
  refine ⟨fun none => ?_, fun x => ?_⟩
  · have noPlace : ¬ p.applyAttempt.1.hasPlace w :=
      Part.copyStatus_none_iff.mp ((Part.copyStatus_congr copy w).trans none)
    refine (List.mem_append.mp (split ▸ joins noPlace)).resolve_left fun old => ?_
    obtain ⟨e, he, same⟩ := List.mem_map.mp (order.subset (List.mem_map_of_mem old))
    exact Part.copyStatus_none_iff.mp none (.inl (List.mem_map.mpr ⟨e, he, congrArg Prod.fst same⟩))
  · refine (keeps x).trans ?_
    rw [notices]
    rfl

end Sys2Proof.Machine
end

section
/-!
An event that settles with no access stalled or requesting a free port, and every waiting job either with work to do, or a
CATCH_UP job with no release behind it, changes no record (R77, R80, R81).
-/

namespace Sys2Proof.Machine

/-! ## The law of the waiting list by itself -/

/-- The part with an IDLE touch copier and an empty touch queue. -/
def Part.bare (p : Part) : Part :=
  { p with copy := { p.copy with touch := ⟨.idle, p.copy.touch.holding⟩, queue := [] } }

theorem Part.JobsOk.bare {p : Part} (h : p.JobsOk) : p.bare.CopyLaws := by
  refine ⟨⟨h.once, h.alone, h.apart, h.promoted, h.inService⟩, ?_, fun c w l _ => ?_⟩
  · rw [Part.queueOk_iff_law]
    exact ⟨List.nodup_nil, rfl⟩
  · simp [Part.bare, TouchWork.mark]

theorem Part.JobsOk.of_bare {p : Part} (h : p.bare.CopyLaws) : p.JobsOk :=
  ⟨h.jobs.once, h.jobs.alone, h.jobs.apart, h.jobs.promoted, h.jobs.inService⟩

/-! ## The condition -/

/-- The waiting windows stand once each, and no channel serves one. -/
structure Part.Orderly (p : Part) : Prop where
  once : p.waitingWindows.Nodup
  apart : ∀ c w, (p.channel c).work.served? = some w → w ∉ p.waitingWindows

/-- The job has work to do in the service state, or it is a CATCH_UP job with no release behind it. -/
def Service.harmless (sv : Service) (job : Job) : Prop :=
  sv.stale.get (sv.jobTarget job) ≠ 0#64 ∨ (job = .catchUp ∧ sv.releasePending = false)

/-- Settling from here changes no record: those stand at `r`. Where `n` names the notices, they stand there, and every
waiting job has work. -/
structure Part.Steady (r : Vector Record 16) (n : Option (PerPort NoticeUnit)) (p : Part) : Prop where
  records : p.records = r
  notices : ∀ m ∈ n, p.notices = m
  jobs : p.freeChannel? = none ∨
    (p.Orderly ∧ ∀ e ∈ p.copy.waiting, ∀ sv, p.service e.window = some sv →
      sv.stale.get (sv.jobTarget e.job) ≠ 0#64 ∨ (n = none ∧ e.job = .catchUp ∧ sv.releasePending = false))
  unmasked : ∀ c w job, (p.channel c).work = .serving w job none → (p.channel c).masked = false
  stalls : ∀ x a st k, p.accessOf x = some a → a.phase ≠ .stalled st k
  requests : p.arbiter.access.isSome = true ∨ ∀ x, p.portRequests x = false

section
variable {r : Vector Record 16} {n : Option (PerPort NoticeUnit)} {p q : Part}

theorem Part.freeChannel?_channels (h : q.copy.channels = p.copy.channels) : q.freeChannel? = p.freeChannel? := by
  have channel : q.channel = p.channel := funext fun c => by simp only [Part.channel, h]
  unfold Part.freeChannel?
  rw [channel]

theorem Part.Steady.congr (h : Part.Steady r n p) (records : q.records = p.records)
    (notices : n = none ∨ q.notices = p.notices) (channels : q.copy.channels = p.copy.channels)
    (waiting : q.copy.waiting = p.copy.waiting) (ports : q.ports = p.ports)
    (access : p.arbiter.access.isSome = true → q.arbiter.access.isSome = true) : Part.Steady r n q := by
  have channel : ∀ c, q.channel c = p.channel c := fun c => by simp only [Part.channel, channels]
  have service : ∀ w, q.service w = p.service w := fun w => Part.service_of_records records w
  have accessOf : ∀ x, q.accessOf x = p.accessOf x := fun x => by simp only [Part.accessOf, ports]
  have portRequests : ∀ x, q.portRequests x = p.portRequests x := fun x => by rw [Part.portRequests, accessOf]; rfl
  refine ⟨records.trans h.records, fun m hm => ?_, ?_, fun c w job => ?_, fun x a st k => ?_, ?_⟩
  · rcases notices with e | e
    · rw [e] at hm
      cases hm
    · rw [e]
      exact h.notices m hm
  · refine h.jobs.imp (fun free => ?_) fun ⟨⟨once, apart⟩, waits⟩ => ⟨⟨?_, fun c w => ?_⟩, fun e he sv => ?_⟩
    · rw [Part.freeChannel?_channels channels]
      exact free
    · rw [Part.waitingWindows, waiting]
      exact once
    · rw [channel, Part.waitingWindows, waiting]
      exact apart c w
    · rw [service]
      exact waits e (waiting ▸ he) sv
  · rw [channel]
    exact h.unmasked c w job
  · rw [accessOf]
    exact h.stalls x a st k
  · exact h.requests.imp access fun none x => (portRequests x).trans (none x)

/-- A channel that serves gets or has a line. -/
theorem Part.Steady.line (h : Part.Steady r n p) {c : Chan} {w : Win} {job : Job}
    (serves : (p.channel c).work = .serving w job none) (cp : Option LineCopy) :
    Part.Steady r n (p.setChannelWork c (.serving w job cp)) := by
  have work := p.work_setChannelWork c
  have masked : ∀ d, ((p.setChannelWork c (.serving w job cp)).channel d).masked = (p.channel d).masked := fun d => by
    by_cases same : d = c
    · subst same
      rw [Part.setChannelWork, Part.channel_setChannel_same]
    · rw [Part.setChannelWork, Part.channel_setChannel_ne p same]
  refine ⟨h.records, h.notices, ?_, fun d v job' none => ?_, h.stalls, h.requests⟩
  · refine h.jobs.imp (fun free => ?_) fun ⟨⟨once, apart⟩, waits⟩ => ⟨⟨once, fun d v served => ?_⟩, waits⟩
    · refine List.find?_eq_none.mpr fun d _ => ?_
      by_cases same : d = c
      · rw [work, if_pos same]
        simp
      · rw [work, if_neg same, masked]
        exact List.find?_eq_none.mp free d (mem_allChannels d)
    · rw [work] at served
      split at served
      · rename_i same
        exact apart c v (by rw [serves]; exact served)
      · exact apart d v served
  · rw [masked]
    rw [work] at none
    split at none
    · rename_i same
      rw [same]
      exact h.unmasked c w job serves
    · exact h.unmasked d v job' none

theorem Part.Steady.selectLine (h : Part.Steady r n p) (c : Chan) : Part.Steady r n (p.selectLine c) := by
  unfold Part.selectLine
  split
  · rename_i serves
    split
    · split
      · exact h.line serves _
      · exact h
    · exact h
  · exact h

theorem Part.Steady.channelStep (h : Part.Steady r n p) (c : Chan) : Part.Steady r n (p.channelStep c) := by
  unfold Part.channelStep
  split
  · rename_i serves
    rw [h.unmasked c _ _ serves]
    exact h.selectLine c
  · exact h

theorem Part.Steady.stepChannels (h : Part.Steady r n p) : Part.Steady r n p.stepChannels :=
  (((h.channelStep 3).channelStep 2).channelStep 1).channelStep 0

theorem Channel.masked_ended (ch : Channel) (w : Win) : (ch.ended w).masked = ch.masked := by
  unfold Channel.ended
  split
  · split <;> rfl
  · rfl

theorem Part.Steady.endJob (h : Part.Steady r n p) (w : Win) (orderly : p.Orderly)
    (waits : ∀ e ∈ p.copy.waiting, ∀ sv, p.service e.window = some sv →
      sv.stale.get (sv.jobTarget e.job) ≠ 0#64 ∨ (n = none ∧ e.job = .catchUp ∧ sv.releasePending = false)) :
    Part.Steady r n (p.endJob w) := by
  obtain ⟨once, apart⟩ := orderly
  have sub : (p.endJob w).waitingWindows.Sublist p.waitingWindows := List.filter_sublist.map _
  refine ⟨h.records, h.notices, .inr ⟨⟨once.sublist sub, fun c v served => ?_⟩,
    fun e he sv => waits e (List.mem_of_mem_filter he) sv⟩, fun c v job none => ?_, h.stalls, h.requests⟩
  · rw [Part.work_endJob, ChannelWork.ended] at served
    split at served
    · cases served
    · exact fun hv => apart c v served (sub.subset hv)
  · rw [Part.work_endJob, ChannelWork.ended] at none
    split at none
    · cases none
    · rw [Part.channel_endJob, Channel.masked_ended]
      exact h.unmasked c v job none

/-- The head of the list is taken: its job is complete only if it is a CATCH_UP with nothing behind it. -/
theorem Part.Steady.takeHead (h : Part.Steady r n p) {c : Chan} {e : WaitEntry} {rest : List WaitEntry}
    (free : p.freeChannel? = some c) (waiting : p.copy.waiting = e :: rest) : Part.Steady r n (p.takeHead c e rest) := by
  obtain ⟨idle, unmasked⟩ := Part.freeChannel?_spec free
  obtain ⟨⟨once, apart⟩, waits⟩ := h.jobs.resolve_left (by rw [free]; nofun)
  have windows : p.waitingWindows = e.window :: rest.map (fun x => x.window) := by
    rw [Part.waitingWindows, waiting, List.map_cons]
  rw [windows, List.nodup_cons] at once
  generalize hq : (p.setWaiting rest).setChannelWork c (.serving e.window e.job none) = q
  have work : ∀ d, (q.channel d).work = if d = c then .serving e.window e.job none else (p.channel d).work := fun d => by
    rw [← hq]
    exact (p.setWaiting rest).work_setChannelWork c d _
  have orderly : q.Orderly := by
    refine ⟨by rw [← hq]; exact once.2, fun d v served => ?_⟩
    have left : q.waitingWindows = rest.map (fun x => x.window) := by rw [← hq]; rfl
    rw [work] at served
    rw [left]
    split at served
    · cases served
      exact once.1
    · exact fun hv => apart d v served (by rw [windows]; exact List.mem_cons_of_mem _ hv)
  have waits' : ∀ x ∈ q.copy.waiting, ∀ sv, q.service x.window = some sv →
      sv.stale.get (sv.jobTarget x.job) ≠ 0#64 ∨ (n = none ∧ x.job = .catchUp ∧ sv.releasePending = false) := by
    intro x hx sv
    rw [← hq] at hx ⊢
    exact waits x (waiting ▸ List.mem_cons_of_mem e hx) sv
  have taken : Part.Steady r n q := by
    refine ⟨by rw [← hq]; exact h.records, by rw [← hq]; exact h.notices, .inr ⟨orderly, waits'⟩,
      fun d w job none => ?_, by rw [← hq]; exact h.stalls, by rw [← hq]; exact h.requests⟩
    by_cases same : d = c
    · subst same
      rw [← hq, Part.setChannelWork, Part.channel_setChannel_same]
      exact unmasked
    · rw [work, if_neg same] at none
      rw [← hq, Part.setChannelWork, Part.channel_setChannel_ne _ same]
      exact h.unmasked d w job none
  have jobOf : q.jobOf e.window = some e.job := by
    refine Part.jobOf_serving (c := c) (by rw [work, if_pos rfl]) fun d hd served => ?_
    rw [work, if_neg hd] at served
    exact apart d e.window served (by rw [windows]; exact List.mem_cons_self)
  have entry := waits e (by rw [waiting]; exact List.mem_cons_self)
  have service : ∀ v, q.service v = p.service v := fun v => by rw [← hq]; rfl
  unfold Part.takeHead
  rw [hq]
  dsimp only
  split
  · rename_i complete
    cases hs : q.service e.window with
    | none => simp [Part.jobComplete, hs] at complete
    | some sv =>
      have empty : sv.stale.get (sv.jobTarget e.job) = noLines := by
        by_contra stale
        rw [Part.jobComplete_stale hs jobOf stale] at complete
        cases complete
      obtain ⟨quiet, catchUp, pending⟩ := (entry sv ((service _).symm.trans hs)).resolve_left (fun stale => stale empty)
      have ended := taken.endJob e.window orderly waits'
      have hs' : (q.endJob e.window).service e.window = some sv := hs
      unfold Part.testJob
      rw [if_pos complete, jobOf, catchUp]
      dsimp only
      unfold Part.completeCatchUp
      dsimp only
      rw [hs']
      dsimp only
      rw [pending]
      exact ended.congr rfl (.inl quiet) rfl rfl rfl id
  · exact taken.selectLine c

theorem Part.grantChannel_keeps (p : Part) (c : Chan) :
    (p.grantChannel c).records = p.records ∧ (p.grantChannel c).copy = p.copy ∧ (p.grantChannel c).ports = p.ports ∧
      (p.grantChannel c).notices = p.notices ∧
      (p.arbiter.access.isSome = true → (p.grantChannel c).arbiter.access.isSome = true) := by
  unfold Part.grantChannel
  split
  · exact ⟨rfl, rfl, rfl, rfl, id⟩
  · exact ⟨rfl, rfl, rfl, rfl, fun _ => rfl⟩

theorem Part.Steady.grantChannel (h : Part.Steady r n p) (c : Chan) : Part.Steady r n (p.grantChannel c) := by
  obtain ⟨records, copy, ports, notices, access⟩ := p.grantChannel_keeps c
  exact h.congr records (.inr notices) (by rw [copy]) (by rw [copy]) ports access

theorem Part.Steady.takeJobs (fuel : Nat) : ∀ {p : Part}, Part.Steady r n p → Part.Steady r n (Part.takeJobs fuel p) := by
  induction fuel with
  | zero => exact id
  | succ k ih =>
    intro p h
    unfold Part.takeJobs
    split
    case h_2 => exact h
    case h_1 c e rest free waiting =>
      have taken := h.takeHead free waiting
      refine ih ?_
      unfold Part.chooseAtOnce
      split
      · exact taken
      · exact taken.grantChannel c

theorem Part.Steady.touchTake (h : Part.Steady r n p) : Part.Steady r n p.touchTake := by
  unfold Part.touchTake
  repeat' split
  all_goals exact h.congr rfl (.inr rfl) rfl rfl rfl id

theorem Part.Steady.touchRequest (h : Part.Steady r n p) (x : Port) (w : Win) (line : Nat) :
    Part.Steady r n (p.touchRequest x w line) := by
  unfold Part.touchRequest
  split
  · exact h.congr rfl (.inr rfl) rfl rfl rfl id
  · exact (h.congr (q := p.setQueue (p.copy.queue ++ [⟨x, w, line, false, false⟩])) rfl (.inr rfl) rfl rfl rfl id).touchTake

theorem Part.Steady.makeDeferred (h : Part.Steady r n p) (x : Port) : Part.Steady r n (p.makeDeferred x) := by
  unfold Part.makeDeferred
  split
  · exact h
  · split
    · exact h
    · have dropped : Part.Steady r n { p with copy := { p.copy with deferred := p.copy.deferred.set x none } } :=
        h.congr rfl (.inr rfl) rfl rfl rfl id
      dsimp only
      split
      · exact dropped.touchRequest x _ _
      · exact dropped

/-- With no access stalled no stall ends. -/
theorem Part.reclassify_still (h : ∀ x a st k, p.accessOf x = some a → a.phase ≠ .stalled st k) (x : Port) :
    p.reclassify x = p := by
  unfold Part.reclassify
  split
  · rfl
  · rename_i a acc
    split
    · rename_i st k stalled
      exact absurd stalled (h x a st k acc)
    · rfl

theorem Part.Steady.reclassify (h : Part.Steady r n p) (x : Port) : Part.Steady r n (p.reclassify x) := by
  rw [Part.reclassify_still h.stalls]
  exact h

theorem Part.Steady.round (h : Part.Steady r n p) : Part.Steady r n p.round :=
  (((((h.stepChannels.takeJobs takeFuel).touchTake).makeDeferred .a).makeDeferred .b).reclassify .a).reclassify .b

theorem Part.grantTouch_keeps (p : Part) :
    p.grantTouch.records = p.records ∧ p.grantTouch.notices = p.notices := by
  unfold Part.grantTouch
  split <;> exact ⟨rfl, rfl⟩

/-- With no port's request the choice is among the copiers, and no access is withdrawn. -/
theorem Part.choose_still (h : ∀ x, p.portRequests x = false) (fuel : Nat) :
    (p.choose (fuel + 1)).1.records = p.records ∧ (p.choose (fuel + 1)).1.notices = p.notices ∧
      (p.choose (fuel + 1)).2 = [] := by
  have noPort : p.selectedPort? = none := by
    rw [Part.selectedPort?, h .a, h .b]
  have channel := fun c => p.grantChannel_keeps c
  unfold Part.choose
  split
  · exact ⟨p.grantTouch_keeps.1, p.grantTouch_keeps.2, rfl⟩
  · split
    · exact ⟨(channel _).1, (channel _).2.2.2.1, rfl⟩
    · rw [noPort]
      dsimp only
      split
      · exact ⟨(channel _).1, (channel _).2.2.2.1, rfl⟩
      · exact ⟨rfl, rfl, rfl⟩

theorem Part.offer_still (h : p.arbiter.access.isSome = true ∨ ∀ x, p.portRequests x = false) :
    p.offer.records = p.records ∧ p.offer.notices = p.notices := by
  rcases h with busy | none
  · rw [Part.offer_busy busy]
    exact ⟨rfl, rfl⟩
  · obtain ⟨records, notices, withdrawn⟩ := Part.choose_still none 2
    rw [Part.offer_eq, withdrawn]
    split
    · exact ⟨records, notices⟩
    · exact ⟨rfl, rfl⟩

/-- Settling changes no record, and no notice that is named. -/
theorem Part.Steady.settle (h : Part.Steady r n p) : p.settle.records = r ∧ ∀ m ∈ n, p.settle.notices = m := by
  have rounds := h.round.round
  obtain ⟨records, notices⟩ := Part.offer_still rounds.requests
  rw [Part.settle, records, notices]
  exact ⟨rounds.records, rounds.notices⟩

end

end Sys2Proof.Machine
end

section
/-!
A boundary leaves a part whose settling changes no record (R57, R82, R113).
-/

namespace Sys2Proof.Machine

/-! ## The ports and the channels without a line -/

/-- The ports and the arbiter stay, and a channel without a line had none before, and has its mask as before. -/
structure Part.Calm (p q : Part) : Prop where
  ports : q.ports = p.ports
  arbiter : q.arbiter = p.arbiter
  lineless : ∀ c w job, (q.channel c).work = .serving w job none →
    (∃ v job', (p.channel c).work = .serving v job' none) ∧ (q.channel c).masked = (p.channel c).masked

section
variable {p q r : Part}

theorem Part.Calm.refl (p : Part) : Part.Calm p p := ⟨rfl, rfl, fun _ w job h => ⟨⟨w, job, h⟩, rfl⟩⟩

theorem Part.Calm.trans (h : Part.Calm p q) (k : Part.Calm q r) : Part.Calm p r :=
  ⟨k.ports.trans h.ports, k.arbiter.trans h.arbiter, fun c w job serves => by
    obtain ⟨⟨v, job', serves'⟩, masked⟩ := k.lineless c w job serves
    obtain ⟨before, masked'⟩ := h.lineless c v job' serves'
    exact ⟨before, masked.trans masked'⟩⟩

theorem Part.Calm.of_channels (ports : q.ports = p.ports) (arbiter : q.arbiter = p.arbiter)
    (channels : q.copy.channels = p.copy.channels) : Part.Calm p q := by
  have channel : ∀ c, q.channel c = p.channel c := fun c => by simp only [Part.channel, channels]
  exact ⟨ports, arbiter, fun c w job serves => ⟨⟨w, job, channel c ▸ serves⟩, by rw [channel]⟩⟩

end

section
variable (p : Part) (v : Win)

theorem Part.calm_join (job : Job) : Part.Calm p (p.join v job) := by
  unfold Part.join
  split <;> exact .of_channels rfl rfl rfl

theorem Part.calm_flip (late : Bool) : Part.Calm p (p.flip v late) := by
  unfold Part.flip
  repeat' split
  all_goals exact .of_channels rfl rfl rfl

theorem Part.calm_endPin : Part.Calm p (p.endPin v) := by
  unfold Part.endPin
  split <;> exact .of_channels rfl rfl rfl

theorem Part.calm_boundaryPin : Part.Calm p (p.boundaryPin v) := by
  unfold Part.boundaryPin
  repeat' split
  · exact .refl p
  · exact .refl p
  · exact (p.calm_endPin v).trans (.of_channels rfl rfl rfl)
  · exact .of_channels rfl rfl rfl

theorem Part.calm_boundaryFlip : Part.Calm p (p.boundaryFlip v) := by
  unfold Part.boundaryFlip
  repeat' split
  · exact .refl p
  · exact .of_channels rfl rfl rfl
  · exact p.calm_flip v false
  · exact .of_channels rfl rfl rfl

theorem Part.calm_release : Part.Calm p (p.release v) := by
  unfold Part.release
  split
  · exact .refl p
  · rename_i sv _
    have recorded : Part.Calm p ((if sv.ready.isSome then p.note sv.consumer v .dropped else p).setRecord v
        ((p.record v).released sv)) := by
      split <;> exact .of_channels rfl rfl rfl
    dsimp only
    split
    · exact recorded.trans (.of_channels rfl rfl rfl)
    · exact recorded.trans (Part.calm_join _ v _)

theorem Part.calm_handleBoundary : Part.Calm p (p.handleBoundary v) := by
  have first : Part.Calm p (p.boundaryRelease v) := by
    unfold Part.boundaryRelease
    repeat' split
    · exact .refl p
    · exact .refl p
    · exact .of_channels rfl rfl rfl
    · exact .refl p
    · exact p.calm_release v
  exact (first.trans (Part.calm_boundaryPin _ v)).trans (Part.calm_boundaryFlip _ v)

theorem Part.channel_drainWindow (c : Chan) :
    (p.drainWindow v).channel c = { p.channel c with work := (p.channel c).work.drained v } :=
  Vector.getElem_map _ c.isLt

theorem Part.channel_converted {p : Part} {v : Win} (place : p.copyStatus v ≠ .none) (c : Chan) :
    (p.convertToRetire v).channel c = { p.channel c with work := (p.channel c).work.converted v } := by
  rw [Part.convertToRetire, if_neg place]
  exact Vector.getElem_map _ c.isLt

theorem Part.calm_endsOff : Part.Calm p (p.endsOff v) := by
  refine ⟨rfl, rfl, fun c w job serves => ⟨?_, ?_⟩⟩
  · rw [Part.endsOff_work] at serves
    cases hk : (p.channel c).work with
    | idle => rw [hk] at serves; cases serves
    | draining u cp => rw [hk] at serves; cases serves
    | serving u job' cp =>
      cases cp with
      | none => exact ⟨u, job', rfl⟩
      | some cp =>
        rw [hk] at serves
        simp only [ChannelWork.drained] at serves
        split at serves <;> cases serves
  · have drained := congrArg Channel.masked ((p.removeTouches v true).channel_drainWindow v c)
    exact drained

theorem Part.calm_convertToRetire : Part.Calm p (p.convertToRetire v) := by
  by_cases h : p.copyStatus v = .none
  · rw [Part.convertToRetire_joins h]
    exact .of_channels rfl rfl rfl
  · have work := Part.work_converted h
    refine ⟨?_, ?_, fun c w job serves => ⟨?_, ?_⟩⟩
    · rw [Part.convertToRetire, if_neg h]
    · rw [Part.convertToRetire, if_neg h]
    · rw [work] at serves
      cases hk : (p.channel c).work with
      | idle => rw [hk] at serves; cases serves
      | draining u cp => rw [hk] at serves; cases serves
      | serving u job' cp =>
        cases cp with
        | none => exact ⟨u, job', rfl⟩
        | some cp =>
          rw [hk] at serves
          simp only [ChannelWork.converted] at serves
          split at serves <;> cases serves
    · rw [Part.channel_converted h]

theorem Part.calm_retire {p : Part} {v : Win} {sv : Service} (hs : p.service v = some sv) : Part.Calm p (p.retire v) := by
  have record : Part.Calm p (p.retireRecord v) := by
    rw [Part.retireRecord_eq hs, Part.notesImage]
    split <;> exact .of_channels rfl rfl rfl
  by_cases h : sv.goingHome.stale.b0 = 0#64
  · rw [Part.retire_off hs h]
    exact record.trans (Part.calm_endsOff _ v)
  · rw [Part.retire_home hs h]
    exact (record.trans (.of_channels (q := (p.retireRecord v).removeTouches v false) rfl rfl rfl)).trans
      (Part.calm_convertToRetire _ v)

theorem Part.calm_endPinByApply : Part.Calm p (p.endPinByApply v) := by
  unfold Part.endPinByApply
  split
  · exact p.calm_endPin v
  · exact .refl p

theorem Part.calm_windowAtBoundary (applied : Bool) : Part.Calm p (p.windowAtBoundary applied v) := by
  unfold Part.windowAtBoundary
  split
  · split
    · exact (Part.Calm.of_channels (p := p) (q := (p.setRecord v (Record.enabled (p.liveOf v))).clearRoleNotices v
        (p.liveOf v).producer) rfl rfl rfl).trans (Part.calm_join _ v .catchUp)
    · exact .refl p
  · split_ifs
    · exact .refl p
    · exact (p.calm_endPinByApply v).trans (Part.calm_handleBoundary _ v)
    · exact Part.calm_retire (by assumption)
    · exact p.calm_handleBoundary v

end

/-! ## The law of the waiting list -/

section
variable {p : Part} (v : Win)

theorem Part.join_bare (p : Part) (job : Job) : p.bare.join v job = (p.join v job).bare := by
  unfold Part.join
  rw [show p.bare.copyStatus v = p.copyStatus v from rfl]
  split <;> rfl

theorem Part.JobsOk.join (h : p.JobsOk) (inService : (p.service v).isSome = true) (job : Job) : (p.join v job).JobsOk := by
  have laws := Part.copyLaws_join h.bare (w := v) inService job
  rw [Part.join_bare] at laws
  exact .of_bare laws

theorem Part.JobsOk.release (h : p.JobsOk) : (p.release v).JobsOk := by
  unfold Part.release
  split
  · exact h
  · rename_i sv hs
    have noted : Part.SameCopy p (if sv.ready.isSome then p.note sv.consumer v .dropped else p) := by
      split
      · exact p.sameCopy_note _ _ _
      · exact .refl p
    have recorded := h.sameCopy (noted.trans (Part.sameCopy_setRecord (w := v) (r := (p.record v).released sv) rfl))
    dsimp only
    split
    · exact recorded.sameCopy (Part.sameCopy_note _ _ _ _)
    · exact recorded.join v (by rw [Part.service_setRecord_same]; rfl) _

theorem Part.JobsOk.handleBoundary (h : p.JobsOk) : (p.handleBoundary v).JobsOk := by
  have first : (p.boundaryRelease v).JobsOk := by
    unfold Part.boundaryRelease
    repeat' split
    · exact h
    · exact h
    · exact h.sameCopy ((p.sameCopy_note _ _ _).trans (Part.sameCopy_setService _ v _))
    · exact h
    · exact h.release v
  exact (first.sameCopy (Part.sameCopy_boundaryPin _ v)).sameCopy (Part.sameCopy_boundaryFlip _ v)

theorem Part.JobsOk.enable (h : p.JobsOk) : (p.enable v).JobsOk := by
  have recorded : (p.setRecord v (Record.enabled (p.liveOf v))).JobsOk := h.sameCopy (Part.sameCopy_setRecord rfl)
  have cleared : ((p.setRecord v (Record.enabled (p.liveOf v))).clearRoleNotices v (p.liveOf v).producer).JobsOk :=
    recorded.sameCopy (.of_records rfl rfl)
  exact cleared.join v (congrArg Option.isSome (Part.service_setRecord_same p v (Record.enabled (p.liveOf v)))) _

theorem Part.retire_bare {sv : Service} (hs : p.service v = some sv) : p.bare.retire v = (p.retire v).bare := by
  have record : p.bare.retireRecord v = (p.retireRecord v).bare := by
    rw [Part.retireRecord_eq hs, Part.retireRecord_eq (p := p.bare) hs, Part.notesImage, Part.notesImage]
    split <;> rfl
  by_cases h : sv.goingHome.stale.b0 = 0#64
  · rw [Part.retire_off hs h, Part.retire_off (p := p.bare) hs h, record]
    generalize p.retireRecord v = q
    rfl
  · rw [Part.retire_home hs h, Part.retire_home (p := p.bare) hs h, record]
    generalize p.retireRecord v = q
    unfold Part.convertToRetire
    rw [show (q.bare.removeTouches v false).copyStatus v = (q.removeTouches v false).copyStatus v from rfl]
    split
    · exact Part.join_bare v (q.removeTouches v false) .retire
    · rfl

theorem Part.JobsOk.retire (h : p.JobsOk) {sv : Service} (hs : p.service v = some sv) : (p.retire v).JobsOk := by
  have laws := Part.copyLaws_retire h.bare v
  rw [Part.retire_bare v hs] at laws
  exact .of_bare laws

theorem Part.JobsOk.windowAtBoundary (h : p.JobsOk) (applied : Bool) : (p.windowAtBoundary applied v).JobsOk := by
  unfold Part.windowAtBoundary
  split
  · split
    · exact h.enable v
    · exact h
  · split_ifs
    · exact h
    · exact (h.sameCopy (p.sameCopy_endPinByApply v)).handleBoundary v
    · exact h.retire v (by assumption)
    · exact h.handleBoundary v

end

/-! ## The work of the waiting windows -/

/-- Every entry of the window waits harmlessly. -/
def Part.harmlessAt (p : Part) (v : Win) : Prop :=
  ∀ e ∈ p.copy.waiting, e.window = v → ∀ sv, p.service v = some sv → sv.harmless e.job

/-- The service states agree in what a waiting job looks at. -/
def Service.sameWork (sv sv' : Service) : Prop :=
  sv'.stale = sv.stale ∧ sv'.back = sv.back ∧ sv'.releasePending = sv.releasePending

theorem Service.sameWork.harmless {sv sv' : Service} (h : sv.sameWork sv') {job : Job} (k : sv.harmless job) :
    sv'.harmless job := by
  obtain ⟨stale, back, pending⟩ := h
  cases job <;> simp only [Service.harmless, Service.jobTarget, stale, back, pending] at k ⊢ <;> exact k

/-- Steps 2 to 4 leave the stale sets, the back and RELEASE_PENDING (R60 to R62). -/
theorem Part.pinAndFlip_sameWork {p : Part} {v : Win} {sv : Service} (hs : p.service v = some sv) :
    ∃ sv', (p.pinAndFlip v).service v = some sv' ∧ sv.sameWork sv' := by
  cases pin : sv.pin with
  | none =>
    cases ready : sv.ready with
    | none =>
      rw [Part.pinAndFlip_nothing hs pin ready]
      exact ⟨_, Part.service_setRecord_same p v _, rfl, rfl, rfl⟩
    | some image =>
      rw [Part.pinAndFlip_flips hs pin ready]
      exact ⟨_, Part.service_setRecord_same p v _, rfl, rfl, rfl⟩
  | some k =>
    by_cases limit : (p.liveOf v).pinLimit ≤ k + 1
    · cases ready : sv.ready with
      | none =>
        rw [Part.pinAndFlip_expires hs pin limit ready]
        exact ⟨_, Part.service_setRecord_same p v _, rfl, rfl, rfl⟩
      | some image =>
        rw [Part.pinAndFlip_expires_flips hs pin limit ready]
        exact ⟨_, Part.service_setRecord_same p v _, rfl, rfl, rfl⟩
    · rw [Part.pinAndFlip_pinned hs pin (by omega)]
      exact ⟨_, Part.service_setRecord_same p v _, rfl, rfl, rfl⟩

/-- A release leaves every stale set at least as it was, and no release pending (R49). -/
theorem Part.release_service {p : Part} {v : Win} {sv : Service} (hs : p.service v = some sv) :
    (p.release v).service v = some (sv.afterRelease (p.record v).next sv.newBack) := by
  have recorded : ∀ q : Part, (q.setRecord v ((p.record v).released sv)).service v =
      some (sv.afterRelease (p.record v).next sv.newBack) := fun q => by
    rw [Part.service_setRecord_same, Record.released_eq _ rfl]
  rw [Part.release_eq hs rfl]
  dsimp only
  split
  · exact recorded _
  · rw [Part.service_of_records (Part.join_records _ v _)]
    exact recorded _

theorem Part.release_entries {p : Part} {v : Win} {e : WaitEntry} (he : e ∈ (p.release v).copy.waiting) :
    e ∈ p.copy.waiting ∨ e.job = .catchUp := by
  unfold Part.release at he
  split at he
  · exact .inl he
  · rename_i sv _
    have copy : ((if sv.ready.isSome then p.note sv.consumer v .dropped else p).setRecord v
        ((p.record v).released sv)).copy = p.copy := by
      split <;> rfl
    dsimp only at he
    generalize (if sv.ready.isSome then p.note sv.consumer v .dropped else p).setRecord v
      ((p.record v).released sv) = q at he copy
    split at he
    · exact .inl (copy ▸ he)
    · unfold Part.join at he
      split at he
      · rcases List.mem_append.mp he with old | new
        · exact .inl (copy ▸ old)
        · cases List.mem_singleton.mp new
          exact .inr rfl
      · exact .inl (copy ▸ he)

theorem Service.harmless_afterRelease {sv : Service} {job : Job} (h : sv.harmless job) (number : Word) (new : Bank) :
    (sv.afterRelease number new).harmless job := by
  cases job with
  | catchUp => exact .inr ⟨rfl, rfl⟩
  | retire =>
    refine .inl fun empty => ?_
    have stale := h.resolve_right (fun ⟨no, _⟩ => nomatch no)
    have grown : sv.gained .b0 = 0#64 := empty
    unfold Service.gained at grown
    split at grown
    · exact stale grown
    · exact stale (BitVec.or_eq_zero_iff.mp grown).1

theorem Part.harmlessAt.handleBoundary {p : Part} {v : Win} (h : p.harmlessAt v) {sv : Service}
    (hs : p.service v = some sv) : (p.handleBoundary v).harmlessAt v := by
  have first : (p.boundaryRelease v).harmlessAt v ∧ ∃ sv', (p.boundaryRelease v).service v = some sv' := by
    have stays : p.harmlessAt v ∧ ∃ sv', p.service v = some sv' := ⟨h, sv, hs⟩
    unfold Part.boundaryRelease
    rw [hs]
    dsimp only
    split_ifs
    · exact stays
    · have carried : (p.overrun v sv).service v = some { sv with carried := true } := Part.service_setService_same _ _ _
      refine ⟨fun e he same sv' hs' => ?_, _, carried⟩
      cases carried.symm.trans hs'
      exact Service.sameWork.harmless (sv := sv) ⟨rfl, rfl, rfl⟩ (h e he same sv hs)
    · exact stays
    · have released := Part.release_service hs
      refine ⟨fun e he same sv' hs' => ?_, _, released⟩
      cases released.symm.trans hs'
      rcases Part.release_entries he with old | catchUp
      · exact Service.harmless_afterRelease (h e old same sv hs) _ _
      · rw [catchUp]
        exact .inr ⟨rfl, rfl⟩
  obtain ⟨harmless, sv', hs'⟩ := first
  obtain ⟨last, service, work⟩ := Part.pinAndFlip_sameWork hs'
  intro e he same sv'' hs''
  rw [Part.handleBoundary_eq] at he hs''
  rw [Part.pinAndFlip_copy] at he
  cases service.symm.trans hs''
  exact work.harmless (harmless e he same sv' hs')

theorem Part.harmlessAt.endPinByApply {p : Part} {v : Win} (h : p.harmlessAt v) {sv : Service}
    (hs : p.service v = some sv) :
    (p.endPinByApply v).harmlessAt v ∧ ∃ sv', (p.endPinByApply v).service v = some sv' := by
  unfold Part.endPinByApply
  split
  · rw [Part.endPin_eq hs]
    have unpinned := Part.service_setService_same p v { sv with pin := none }
    refine ⟨fun e he same sv' hs' => ?_, _, unpinned⟩
    cases unpinned.symm.trans hs'
    exact Service.sameWork.harmless (sv := sv) ⟨rfl, rfl, rfl⟩ (h e he same sv hs)
  · exact ⟨h, sv, hs⟩

theorem Part.retire_harmlessAt {p : Part} {v : Win} {sv : Service} (hs : p.service v = some sv) :
    (p.retire v).harmlessAt v := by
  intro e he same sv' hs'
  have record := Part.retire_record hs
  have service : (if sv.goingHome.stale.b0 = 0#64 then none else some sv.goingHome) = some sv' := by
    rw [← hs', Part.service, record, Record.showing_service]
  split at service
  · cases service
  · rename_i stale
    cases service
    have job : e.job = .retire := by
      rw [Part.retire_home hs stale] at he
      exact Part.convertToRetire_entry he same
    rw [job]
    exact .inl stale

theorem Part.enable_harmlessAt {p : Part} {v : Win} (noPlace : ¬ p.hasPlace v) : (p.enable v).harmlessAt v := by
  intro e he same sv hs
  have fresh : (p.enable v).service v = (Record.setUp (p.liveOf v)).service := congrArg Record.service (p.enable_record v)
  cases fresh.symm.trans hs
  have job : e.job = .catchUp := by
    unfold Part.enable Part.join at he
    dsimp only at he
    split at he
    · rcases List.mem_append.mp he with old | new
      · exact absurd (.inl (List.mem_map.mpr ⟨e, old, same⟩)) noPlace
      · cases List.mem_singleton.mp new
        rfl
    · exact absurd (.inl (List.mem_map.mpr ⟨e, he, same⟩)) noPlace
  rw [job]
  exact .inr ⟨rfl, rfl⟩

theorem Part.harmlessAt.windowAtBoundary {p : Part} {v : Win} (h : p.harmlessAt v) (jobs : p.JobsOk) (applied : Bool) :
    (p.windowAtBoundary applied v).harmlessAt v := by
  unfold Part.windowAtBoundary
  split
  · rename_i off
    split
    · refine Part.enable_harmlessAt fun place => ?_
      have := jobs.inService v place
      rw [off] at this
      cases this
    · exact h
  · rename_i sv hs
    split_ifs
    · exact h
    · obtain ⟨pinned, sv', hs'⟩ := h.endPinByApply hs
      exact pinned.handleBoundary hs'
    · exact Part.retire_harmlessAt hs
    · exact h.handleBoundary hs

/-- An entry of another window stood there before. -/
theorem WaitStep.mem_of {v : Win} {l l' : List WaitEntry} (s : WaitStep v l l') {e : WaitEntry} (he : e ∈ l')
    (other : e.window ≠ v) : e ∈ l := by
  cases s with
  | stays => exact he
  | joins job =>
    rcases List.mem_append.mp he with old | new
    · exact old
    · cases List.mem_singleton.mp new
      exact absurd rfl other
  | leaves => exact List.mem_of_mem_filter he
  | converts =>
    obtain ⟨x, hx, rfl⟩ := List.mem_map.mp he
    split at other
    · contradiction
    · rw [if_neg (by assumption)]
      exact hx

/-! ## The boundary -/

/-- The waiting list keeps its law, every waiting job is harmless, a channel without a line is not masked, and no access
waits. -/
structure Part.Standing (p : Part) : Prop where
  jobs : p.JobsOk
  waits : ∀ e ∈ p.copy.waiting, ∀ sv, p.service e.window = some sv → sv.harmless e.job
  unmasked : ∀ c w job, (p.channel c).work = .serving w job none → (p.channel c).masked = false
  still : p.nothingWaits

theorem Part.Standing.congr {p q : Part} (h : p.Standing) (records : q.records = p.records)
    (channels : q.copy.channels = p.copy.channels) (waiting : q.copy.waiting = p.copy.waiting)
    (still : q.nothingWaits) : q.Standing := by
  have channel : ∀ c, q.channel c = p.channel c := fun c => by simp only [Part.channel, channels]
  have service : ∀ w, q.service w = p.service w := fun w => Part.service_of_records records w
  refine ⟨h.jobs.shrink (by rw [waiting]) (fun c w => by rw [channel]; exact id) (fun w _ => by rw [service]; exact id),
    fun e he sv => ?_, fun c w job => ?_, still⟩
  · rw [service]
    exact h.waits e (waiting ▸ he) sv
  · rw [channel]
    exact h.unmasked c w job

theorem Part.Standing.steady {p : Part} (h : p.Standing) : Part.Steady p.records none p := by
  refine ⟨rfl, nofun, .inr ⟨⟨h.jobs.once, h.jobs.apart⟩, fun e he sv hs => (h.waits e he sv hs).imp id (⟨rfl, ·⟩)⟩, h.unmasked,
    fun x a st k acc => ?_, .inr fun x => ?_⟩
  · obtain ⟨m, granted⟩ := h.still x a acc
    rw [granted]
    nofun
  · cases acc : p.accessOf x with
    | none => rw [Part.portRequests, acc]
    | some a =>
      obtain ⟨m, granted⟩ := h.still x a acc
      rw [Part.portRequests, acc]
      dsimp only
      rw [granted]

/-- Settling changes no record. -/
theorem Part.Standing.settle {p : Part} (h : p.Standing) : p.settle.records = p.records := h.steady.settle.1

theorem Part.Standing.windowAtBoundary {p : Part} (h : p.Standing) (applied : Bool) (v : Win) :
    (p.windowAtBoundary applied v).Standing := by
  have calm := p.calm_windowAtBoundary v applied
  refine ⟨h.jobs.windowAtBoundary v applied, fun e he sv hs => ?_, fun c w job serves => ?_, fun x a acc => ?_⟩
  · by_cases own : e.window = v
    · have here : p.harmlessAt v := fun e he same sv hs => h.waits e he sv (same ▸ hs)
      exact here.windowAtBoundary h.jobs applied e he own sv (own ▸ hs)
    · have same := (p.untouched_windowAtBoundary applied (w := e.window) (Ne.symm own)).same.service
      exact h.waits e ((p.windowAtBoundary_waitStep applied v).mem_of he own) sv (same ▸ hs)
  · obtain ⟨⟨u, job', before⟩, masked⟩ := calm.lineless c w job serves
    rw [masked]
    exact h.unmasked c u job' before
  · rw [Part.accessOf, calm.ports] at acc
    exact h.still x a acc

theorem Part.Standing.deliverBoundary {p : Part} (h : p.Standing) : p.deliverBoundary.Standing := by
  obtain ⟨records, -, -, -, ports, copy, -⟩ := p.applyAttempt_keeps
  have still : p.applyAttempt.1.nothingWaits := fun x a acc => h.still x a (by rw [Part.accessOf, ← ports]; exact acc)
  have start := h.congr records (by rw [copy]) (by rw [copy]) still
  rw [Part.deliverBoundary_eq]
  generalize p.applyAttempt = a at start
  exact foldl_keeps (P := Part.Standing) (fun q w hq => hq.windowAtBoundary _ w) allWindows start

end Sys2Proof.Machine
end

section
/-!
What a boundary in RUN leaves when its event has settled (R113, R129).
-/

namespace Sys2Proof.Machine

/-! ## The apply attempt looks at part of the state -/

/-- The parts agree in what the apply attempt and the windows' handling look at. -/
structure Part.SameSetting (p q : Part) : Prop where
  opState : q.opState = p.opState
  staging : q.staging = p.staging
  records : q.records = p.records
  live : q.live = p.live
  channels : q.copy.channels = p.copy.channels
  touch : q.copy.touch.work = p.copy.touch.work

section
variable {p q : Part}

theorem Part.SameSetting.service (h : p.SameSetting q) (w : Win) : q.service w = p.service w :=
  Part.service_of_records h.records w

theorem Part.SameSetting.applyDeferred (h : p.SameSetting q) : q.applyDeferred = p.applyDeferred := by
  have service : q.service = p.service := funext h.service
  unfold Part.applyDeferred
  rw [service, h.staging]

theorem Part.SameSetting.setCheckBoundary (h : p.SameSetting q) : q.setCheckBoundary = p.setCheckBoundary := by
  have service : q.service = p.service := funext h.service
  have staged : q.stagedOf = p.stagedOf := funext fun w => by rw [Part.stagedOf, h.staging]; rfl
  have regions : q.boundaryRegions = p.boundaryRegions := funext fun w => by
    unfold Part.boundaryRegions
    rw [service, staged, h.staging]
  have drained : q.copy.drainRegions = p.copy.drainRegions := by
    unfold CopyEngine.drainRegions
    rw [h.channels, h.touch]
  rw [Part.setCheckBoundary, Part.setCheckBoundary, regions, drained]

theorem Part.SameSetting.appliedLive (h : p.SameSetting q) : q.appliedLive = p.appliedLive := by
  unfold Part.appliedLive Part.stagedOf Part.liveOf
  rw [h.staging, h.live]

/-- The attempt has the same outcome in the descriptors, the stage and the marks. -/
theorem Part.SameSetting.applyAttempt (h : p.SameSetting q) :
    q.applyAttempt.1.live = p.applyAttempt.1.live ∧ q.applyAttempt.1.staging = p.applyAttempt.1.staging ∧
      q.applyAttempt.2 = p.applyAttempt.2 := by
  unfold Part.applyAttempt
  rw [h.applyDeferred, h.setCheckBoundary, h.opState, h.staging]
  split_ifs
  · exact ⟨h.live, h.staging, rfl⟩
  · exact ⟨h.appliedLive, congrArg (fun s : Staging => { s with changed := 0#16 }) h.staging, rfl⟩
  · exact ⟨h.live, congrArg (fun s : Staging => { s with rejected := true }) h.staging, rfl⟩
  · exact ⟨h.live, h.staging, rfl⟩

theorem Part.SameSetting.inCopyLines (h : p.SameSetting q) (w : Win) : q.inCopyLines w = p.inCopyLines w :=
  Part.inCopyLines_of_marks (fun c => by simp only [Part.channel, h.channels]) (by rw [h.touch])

/-- The boundary leaves the same descriptors, stage and records. -/
theorem Part.SameSetting.deliverBoundary (h : p.SameSetting q) :
    q.deliverBoundary.live = p.deliverBoundary.live ∧ q.deliverBoundary.staging = p.deliverBoundary.staging ∧
      ∀ w, q.deliverBoundary.record w = p.deliverBoundary.record w := by
  obtain ⟨live, staging, marks⟩ := h.applyAttempt
  obtain ⟨records, -, -, -, -, copy, -⟩ := p.applyAttempt_keeps
  obtain ⟨records', -, -, -, -, copy', -⟩ := q.applyAttempt_keeps
  have mp := p.moves_deliverBoundary (en := true) fun _ _ => rfl
  have mq := q.moves_deliverBoundary (en := true) fun _ _ => rfl
  refine ⟨by rw [mq.live, mp.live, live], by rw [mq.staging, mp.staging, staging], fun w => ?_⟩
  have same : Part.SameAt w p.applyAttempt.1 q.applyAttempt.1 := by
    refine ⟨by rw [Part.record, Part.record, records, records', h.records], by rw [Part.liveOf, Part.liveOf, live], ?_⟩
    rw [Part.inCopyLines_congr copy', Part.inCopyLines_congr copy, h.inCopyLines]
  rw [Part.deliverBoundary_record, Part.deliverBoundary_record, marks]
  exact same.windowAtBoundary _

end

/-! ## Global notices stay pending -/

theorem NoticeUnit.onward_pending {m n : NoticeUnit} (h : NoticeUnit.onward m n) {k : GlobalNotice}
    (pending : m.global.getLsbD k.bit = true) : n.global.getLsbD k.bit = true := by
  have none := congrArg (fun x : BitVec 6 => x.getLsbD k.bit) h.2.2.2.2
  have inside : k.bit < 6 := by cases k <;> decide
  simpa [pending, inside] using none

theorem Part.globalPending_moves {en : Bool} {p q t : Part} {k : GlobalNotice} (h : Part.globalPending p q k)
    (moves : Part.Moves en q t) : Part.globalPending p t k := by
  intro x routed
  have pending := h x routed
  cases x
  · exact NoticeUnit.onward_pending moves.noticesA pending
  · exact NoticeUnit.onward_pending moves.noticesB pending

theorem Part.globalPending_noteGlobal {p q : Part} (routing : ∀ x, (q.notices.get x).routing = (p.notices.get x).routing)
    (k : GlobalNotice) : Part.globalPending p (q.noteGlobal k) k := by
  have unit : ∀ n : NoticeUnit, n.routing.getLsbD k.bit = true → (n.recordGlobal k).global.getLsbD k.bit = true := by
    intro n routed
    have inside : k.bit < 6 := by cases k <;> decide
    rw [NoticeUnit.recordGlobal, if_pos routed, GlobalSet.add, BitVec.getLsbD_or, BitVec.getLsbD_twoPow]
    simp [inside]
  intro x routed
  rw [← routing] at routed
  cases x
  · exact unit _ routed
  · exact unit _ routed

/-! ## The boundary made -/

theorem Part.deliverBoundary_control {p : Part} (run : p.opState = .run) :
    p.deliverBoundary.timer = p.timer ∧ p.deliverBoundary.opState = .run := by
  obtain ⟨-, timer, -, opState, -⟩ := p.applyAttempt_keeps
  have moves := p.moves_deliverBoundary (en := true) fun _ _ => rfl
  rcases moves.control with ⟨sameTimer, sameState⟩ | ⟨stopping, -⟩
  · exact ⟨sameTimer.trans timer, sameState.trans (opState.trans run)⟩
  · rw [opState, run] at stopping
    cases stopping

/-- The condition under which settling changes no record. -/
theorem Part.standing_of_rest {p : Part}
    (h : p.atRest = true ∧ p.noIdleRequest = true ∧ p.waitingOk = true ∧ p.waitingHasWork ∧ p.nothingWaits) :
    p.Standing := by
  obtain ⟨rest, -, jobs, work, still⟩ := h
  refine ⟨Part.waitingOk_iff.mp jobs, fun e he sv hs => .inl (work e he sv hs), fun c w job serves => ?_, still⟩
  exact (Part.channelHolds_iff.mp ((Part.atRest_iff_queues.mp rest).1 c) w job serves).1

theorem Part.globalPending_deliverBoundary {p q : Part} {k : GlobalNotice} (h : Part.globalPending p q k) :
    Part.globalPending p q.deliverBoundary k := by
  have attempted : Part.globalPending p q.applyAttempt.1 k := by
    rcases q.applyAttempt_cases with e | e | e
    · rw [e]
      exact h
    · rw [e]
      exact Part.globalPending_moves (q := { q with live := q.appliedLive, staging := { q.staging with changed := 0#16 } })
        h (Part.moves_noteGlobal (en := true) _ _)
    · rw [e]
      exact Part.globalPending_moves (q := { q with staging := { q.staging with rejected := true } })
        h (Part.moves_noteGlobal (en := true) _ _)
  exact Part.globalPending_moves attempted (q.moves_deliverBoundary (en := true) fun _ _ => rfl)

/-- A boundary from a part that agrees is the boundary of `Part.boundaryAt` in descriptors, stage and records. -/
theorem Part.SameSetting.boundaryAt {p q : Part} (h : p.SameSetting q) (timer : Timer) :
    q.deliverBoundary.live = (p.boundaryAt timer).live ∧ q.deliverBoundary.staging = (p.boundaryAt timer).staging ∧
      ∀ w, q.deliverBoundary.record w = (p.boundaryAt timer).record w := by
  have noted : (({ p with timer := timer }).noteGlobal .boundary).SameSetting q :=
    ⟨h.opState, h.staging, h.records, h.live, h.channels, h.touch⟩
  exact noted.deliverBoundary

/-- With nothing to apply a boundary leaves the descriptors and the stage, and enables no window. -/
theorem Part.SameSetting.nothingApplied {p q : Part} (h : p.SameSetting q)
    (nothing : p.staging.hold = true ∨ p.staging.rejected = true ∨ p.staging.changed = 0#16) :
    q.deliverBoundary.live = p.live ∧ q.deliverBoundary.staging = p.staging ∧
      ∀ w, p.service w = none → q.deliverBoundary.service w = none := by
  have attempt : q.applyAttempt = (q, 0#16) := by
    refine if_neg fun ⟨_, hold, rejected, changed⟩ => ?_
    rw [h.staging] at hold rejected changed
    rcases nothing with e | e | e
    · simp [e] at hold
    · simp [e] at rejected
    · exact changed e
  have moves := q.moves_deliverBoundary (en := false) fun w applied => by simp [attempt] at applied
  rw [attempt] at moves
  refine ⟨moves.live.trans h.live, moves.staging.trans h.staging, fun w off => ?_⟩
  exact (moves.records w).off ((h.service w).trans off)

/-- From a part `q` that agrees with `p`, with BOUNDARY noted, through the boundary and what follows it (R113). -/
theorem Part.boundaryMade_of {p q b t : Part} {timer : Timer} (run : p.opState = .run) (same : p.SameSetting q)
    (noted : Part.globalPending p q .boundary) (made : q.deliverBoundary = b)
    (moves : Part.Moves false { b with timer := timer } t)
    (still : p.Standing → t.records = b.records) : p.boundaryMade t timer := by
  have opState := (Part.deliverBoundary_control (same.opState.trans run)).2
  have delivered := Part.globalPending_deliverBoundary noted
  obtain ⟨live, staging, record⟩ := same.boundaryAt timer
  have applied := same.nothingApplied
  rw [made] at opState delivered live staging record applied
  have notStopping : ({ b with timer := timer } : Part).opState ≠ .stopping := by
    rw [show ({ b with timer := timer } : Part).opState = .run from opState]
    nofun
  obtain ⟨sameTimer, sameState⟩ := moves.control.resolve_right fun ⟨h, _⟩ => notStopping h
  refine ⟨sameTimer, sameState.trans opState, Part.globalPending_moves (q := { b with timer := timer }) delivered moves,
    moves.live.trans live, moves.staging.trans staging, fun nothing => ?_, fun rest w => ?_⟩
  · obtain ⟨live', staging', off⟩ := applied nothing
    exact ⟨moves.live.trans live', moves.staging.trans staging', fun w none => (moves.records w).off (off w none)⟩
  · rw [Part.record, still (Part.standing_of_rest rest)]
    exact record w

end Sys2Proof.Machine
end

section
/-!
The management link's BOUNDARY (R118, R119).
-/

namespace Sys2Proof.Machine

theorem exec_boundary_given {s : State} (gives : s.frameGives .boundary = true) :
    exec .boundary s = .next s.frameEnded.takeBoundary :=
  congrArg Host.Outcome.next (State.frameEnd_given gives)

theorem State.takeBoundary_standby {s : State} (h : s.part.opState = .standby) : s.takeBoundary = s.result .refused := by
  rw [State.takeBoundary, h]

theorem State.takeBoundary_stopping {s : State} (h : s.part.opState = .stopping) : s.takeBoundary = s.result .busy := by
  rw [State.takeBoundary, h]

theorem State.takeBoundary_run {s : State} (h : s.part.opState = .run) :
    s.takeBoundary = s.carryOut (fun p => p.boundary.settle) := by
  rw [State.takeBoundary, h]

theorem Timer.boundary_eq (t : Timer) : t.boundary = t.atBoundary t.pulse := rfl

theorem Timer.pulse_eq (t : Timer) : t.pulse = if t.source = .external then t.syncOut else true := by
  unfold Timer.pulse
  cases t.source <;> rfl

theorem Part.boundary_eq (p : Part) : p.boundary = p.boundaryAt p.timer.boundary := rfl

theorem Part.boundaryAt_timer {p : Part} (run : p.opState = .run) (timer : Timer) : (p.boundaryAt timer).timer = timer := by
  have control := (Part.deliverBoundary_control (p := ({ p with timer := timer }).noteGlobal .boundary) run).1
  rw [Part.boundaryAt, control]
  rfl

theorem Part.boundaryAt_standing {p : Part} (h : p.Standing) (timer : Timer) : (p.boundaryAt timer).Standing := by
  have noted : (({ p with timer := timer }).noteGlobal .boundary).Standing := h.congr rfl rfl rfl h.still
  rw [Part.boundaryAt]
  exact noted.deliverBoundary

/-- The part at which a boundary is made has come from `p` in a way that the boundary does not look at. -/
structure Part.Reaches (p q : Part) : Prop where
  setting : p.SameSetting q
  routing : ∀ x, (q.notices.get x).routing = (p.notices.get x).routing
  standing : p.Standing → q.Standing

theorem Part.Reaches.refl (p : Part) : p.Reaches p := ⟨⟨rfl, rfl, rfl, rfl, rfl, rfl⟩, fun _ => rfl, id⟩

/-- A boundary in RUN, then what changes no record where settling changes none. -/
theorem Part.Reaches.boundaryMade {p q t : Part} (h : p.Reaches q) (run : p.opState = .run) {made timer : Timer}
    (moves : Part.Moves false { (q.boundaryAt made) with timer := timer } t)
    (still : p.Standing → (q.boundaryAt made).Standing →
      t.records = (q.boundaryAt made).records) : p.boundaryMade t timer := by
  obtain ⟨opState, staging, records, live, channels, touch⟩ := h.setting
  have same : p.SameSetting (({ q with timer := made }).noteGlobal .boundary) :=
    ⟨opState, staging, records, live, channels, touch⟩
  exact Part.boundaryMade_of run same (Part.globalPending_noteGlobal (q := { q with timer := made }) h.routing .boundary) rfl
    moves fun steady => still steady (Part.boundaryAt_standing (h.standing steady) made)

/-- The same where the boundary's timer stays. -/
theorem Part.Reaches.boundaryMade_plain {p q t : Part} (h : p.Reaches q) (run : p.opState = .run) {timer : Timer}
    (moves : Part.Moves false (q.boundaryAt timer) t)
    (still : p.Standing → (q.boundaryAt timer).Standing →
      t.records = (q.boundaryAt timer).records) : p.boundaryMade t timer := by
  have timerIs := Part.boundaryAt_timer (h.setting.opState.trans run) timer
  refine h.boundaryMade run (made := timer) ?_ still
  generalize q.boundaryAt timer = b at *
  subst timerIs
  exact moves

/-- A boundary in RUN that settles at once. -/
theorem Part.boundaryMade_settle {p : Part} (run : p.opState = .run) (timer : Timer) :
    p.boundaryMade (p.boundaryAt timer).settle timer :=
  (Part.Reaches.refl p).boundaryMade_plain run (Part.moves_settle _) fun _ steady => steady.settle

/-- Settles O47: the reply by the state; in RUN the boundary, settled. -/
theorem boundaryCommand : Obligations.BoundaryCommand := by
  unfold Obligations.BoundaryCommand
  intro s gives
  refine ⟨fun h => ?_, fun h => ?_, fun h => ?_⟩
  · rw [exec_boundary_given gives, State.takeBoundary_standby (s := s.frameEnded) h]
    rfl
  · rw [exec_boundary_given gives, State.takeBoundary_stopping (s := s.frameEnded) h]
    rfl
  · intro t made
    have timer : t.boundary = made := by rw [Timer.boundary_eq, Timer.pulse_eq]
    have done : exec .boundary s = .next (s.replied (s.part.boundaryAt made).settle [0x01#8]) := by
      rw [exec_boundary_given gives, State.takeBoundary_run (s := s.frameEnded) h, State.carryOut_frameEnded,
        Part.boundary_eq, timer]
    exact ⟨done, _, done, Part.boundaryMade_settle h made⟩

end Sys2Proof.Machine
end

section
/-!
Rising edges on SYNC_IN (R115, R116), and boundaries that reach no window.
-/

namespace Sys2Proof.Machine

/-! ## A boundary in STOPPING -/

/-- With every window in service RETIRING a boundary reaches none (R113). -/
theorem Part.boundaryAt_retiring {p : Part} (stopping : p.opState = .stopping)
    (retiring : ∀ w sv, p.service w = some sv → sv.retiring = true) (timer : Timer) :
    p.boundaryAt timer = ({ p with timer := timer }).noteGlobal .boundary := by
  have each : ∀ (q : Part) (l : List Win), (∀ w sv, q.service w = some sv → sv.retiring = true) →
      q.windowsAtBoundary 0#16 l = q := by
    intro q l hq
    induction l with
    | nil => rfl
    | cons w rest ih =>
      have own : q.windowAtBoundary ((0#16).getLsbD w.val) w = q := by
        cases hs : q.service w with
        | none => exact Part.windowAtBoundary_off hs (.inl (BitVec.getLsbD_zero))
        | some sv => exact Part.windowAtBoundary_retiring hs (hq w sv hs)
      exact (congrArg (fun r : Part => r.windowsAtBoundary 0#16 rest) own).trans ih
  have notRun : (({ p with timer := timer }).noteGlobal .boundary).opState ≠ .run := by
    change p.opState ≠ .run
    rw [stopping]
    nofun
  have attempt := Part.applyAttempt_notRun notRun
  rw [Part.boundaryAt, Part.deliverBoundary_eq, attempt]
  exact each _ allWindows retiring

/-- Other timers and notices begin no work. -/
theorem Part.settle_quiet {p q : Part} (rest : p.atRest = true) (idle : p.noIdleRequest = true) (ports : q.ports = p.ports)
    (copy : q.copy = p.copy) (records : q.records = p.records) (access : q.arbiter.access = p.arbiter.access) :
    q.settle = q :=
  Part.settle_idle
    (Part.atRest_congr ports copy (fun w => by rw [Part.service_of_records records]) rest)
    (Part.noIdleRequest_congr ports copy access idle)

/-! ## A boundary after which the lock is noted -/

/-- The sync state changed, with its notice (R115, R116). -/
def Part.noteSync (p : Part) (sync : SyncState) (k : GlobalNotice) : Part :=
  ({ p with timer := { p.timer with sync := sync } }).noteGlobal k

theorem Part.noteGlobal_routing (p : Part) (k : GlobalNotice) (x : Port) :
    ((p.noteGlobal k).notices.get x).routing = (p.notices.get x).routing := by
  have unit : ∀ n : NoticeUnit, (n.recordGlobal k).routing = n.routing := fun n => by
    unfold NoticeUnit.recordGlobal
    split <;> rfl
  cases x
  · exact unit p.notices.a
  · exact unit p.notices.b

theorem Part.Moves.routing {en : Bool} {p q : Part} (h : Part.Moves en p q) (x : Port) :
    (q.notices.get x).routing = (p.notices.get x).routing := by
  cases x
  · exact h.noticesA.2.2.2.1
  · exact h.noticesB.2.2.2.1

theorem Part.deliverBoundary_routing (p : Part) (x : Port) :
    (p.deliverBoundary.notices.get x).routing = (p.notices.get x).routing := by
  have moves := p.moves_deliverBoundary (en := true) fun _ _ => rfl
  rw [moves.routing]
  rcases p.applyAttempt_cases with e | e | e
  · rw [e]
  · rw [e]
    exact Part.noteGlobal_routing { p with live := p.appliedLive, staging := { p.staging with changed := 0#16 } } _ x
  · rw [e]
    exact Part.noteGlobal_routing { p with staging := { p.staging with rejected := true } } _ x

theorem Part.boundaryAt_routing (p : Part) (timer : Timer) (x : Port) :
    ((p.boundaryAt timer).notices.get x).routing = (p.notices.get x).routing := by
  rw [Part.boundaryAt, Part.deliverBoundary_routing, Part.noteGlobal_routing]

/-- A boundary in RUN whose event also changes the sync state. -/
theorem Part.Reaches.boundaryMade_noteSync {p q t : Part} (h : p.Reaches q) (run : p.opState = .run) (timer : Timer)
    (sync : SyncState) (k : GlobalNotice)
    (moves : Part.Moves false ((q.boundaryAt timer).noteSync sync k).settle t)
    (still : p.Standing → t.records = ((q.boundaryAt timer).noteSync sync k).settle.records) :
    p.boundaryMade t { timer with sync := sync } ∧ Part.globalPending p t k := by
  have timerIs := Part.boundaryAt_timer (h.setting.opState.trans run) timer
  have routing := fun x => (q.boundaryAt_routing timer x).trans (h.routing x)
  have made := h.boundaryMade (t := t) (made := timer) (timer := { timer with sync := sync }) run
  generalize q.boundaryAt timer = b at *
  subst timerIs
  have settled := (Part.moves_settle (en := false) (b.noteSync sync k)).trans moves
  have noted : Part.globalPending p (b.noteSync sync k) k :=
    Part.globalPending_noteGlobal (q := { b with timer := { b.timer with sync := sync } }) routing k
  refine ⟨made ((Part.moves_noteGlobal _ k).trans settled) fun steady after => ?_, Part.globalPending_moves noted settled⟩
  have noted : (b.noteSync sync k).Standing := after.congr rfl rfl rfl after.still
  rw [still steady, noted.settle]
  rfl

/-! ## The edge -/

section
variable {p : Part}

theorem Part.syncEdge_ignored (h : p.timer.running = false ∨ p.timer.source ≠ .external) : p.syncEdge = p := by
  refine if_neg fun ⟨running, source⟩ => ?_
  rcases h with h | h
  · rw [running] at h
    cases h
  · exact h source

theorem Part.syncEdge_locked (looked : p.timer.running = true ∧ p.timer.source = .external) (sync : p.timer.sync = .locked) :
    p.syncEdge = if p.timer.count ≤ 1 then p else p.boundary.settle := by
  rw [Part.syncEdge, if_pos looked, sync]

theorem Part.syncEdge_flywheel (looked : p.timer.running = true ∧ p.timer.source = .external)
    (sync : p.timer.sync = .flywheel) :
    p.syncEdge =
      if p.timer.count ≤ p.timer.guardTicks then ({ p with timer := p.timer.reload }).restoreLock
      else p.boundary.restoreLock.settle := by
  rw [Part.syncEdge, if_pos looked, sync]

theorem Part.boundary_external (source : p.timer.source = .external) :
    p.boundary = p.boundaryAt (p.timer.atBoundary p.timer.syncOut) := by
  rw [Part.boundary_eq, Timer.boundary_eq, Timer.pulse_eq, if_pos source]

end

theorem Part.restoreLock_eq (p : Part) : p.restoreLock = p.noteSync .locked .syncRestored := rfl

theorem exec_syncInEdge (s : State) : exec .syncInEdge s = .next (s.onPart s.part.syncEdge) := rfl

/-- Settles O31: the edge by the sync state and the count; what settles after a boundary. -/
theorem syncInEdge : Obligations.SyncInEdge := by
  unfold Obligations.SyncInEdge
  intro s t edge restored retiringOnly made quiet
  have edgeIs : edge = .next (s.onPart s.part.syncEdge) := exec_syncInEdge s
  clear_value edge
  subst edgeIs
  have alone : retiringOnly → s.part.boundaryAt made = quiet := fun ⟨stopping, retiring, _⟩ =>
    Part.boundaryAt_retiring stopping retiring made
  have restoredIs : ∀ p, restored p = p.noteSync .locked .syncRestored := fun _ => rfl
  refine ⟨fun h => by rw [Part.syncEdge_ignored h]; rfl, fun looked => ⟨fun ⟨sync, runt⟩ => ?_, fun ⟨sync, later⟩ => ?_,
    fun ⟨sync, near⟩ => ?_, fun ⟨sync, far⟩ => ?_⟩⟩
  · rw [Part.syncEdge_locked looked sync, if_pos runt]
    rfl
  · rw [Part.syncEdge_locked looked sync, if_neg (Nat.not_le.mpr later), Part.boundary_external looked.2]
    refine ⟨rfl, fun h => ?_, fun run => ⟨_, rfl, Part.boundaryMade_settle run made⟩⟩
    rw [alone h, Part.settle_quiet (q := quiet) h.2.2.1 h.2.2.2 rfl rfl rfl rfl]
  · intro aligned
    rw [Part.syncEdge_flywheel looked sync, if_pos near]
    rfl
  · rw [Part.syncEdge_flywheel looked sync, if_neg (Nat.not_le.mpr far), Part.boundary_external looked.2,
      Part.restoreLock_eq, restoredIs, restoredIs]
    refine ⟨rfl, fun h => ?_, fun run => ⟨_, rfl, (Part.Reaches.refl _).boundaryMade_noteSync run made .locked .syncRestored (.refl _) fun _ => rfl⟩⟩
    rw [alone h, Part.settle_quiet (q := quiet.noteSync .locked .syncRestored) h.2.2.1 h.2.2.2 rfl rfl rfl rfl]

end Sys2Proof.Machine
end

section
/-!
Ticks (R109): the count, the stalls that stand, and the boundary that a tick makes.
-/

namespace Sys2Proof.Machine

/-! ## The stalls at a tick -/

/-- The part at a tick: the timer so, every stall that stands with one more tick. -/
def Part.ticked (p : Part) (timer : Timer) : Part :=
  { p with timer := timer, ports := ⟨p.ports.a.tick, p.ports.b.tick⟩ }

theorem Part.advanceStalls_ticked (p : Part) (timer : Timer) :
    ({ p with timer := timer }).advanceStalls = p.ticked timer := rfl

theorem Part.ticked_get (p : Part) (timer : Timer) (q : Port) : (p.ticked timer).ports.get q = (p.ports.get q).tick := by
  cases q <;> rfl

section
variable {p : Part} {timer : Timer} {q : Port} {a : Access}

theorem PortIf.tick_none {i : PortIf} (h : i.access = none) : i.tick = i := by
  rw [PortIf.tick, h]

theorem PortIf.tick_stalled {i : PortIf} {st : Stall} {n : Nat} (h : i.access = some a) (stalled : a.phase = .stalled st n) :
    i.tick = { i with access := some { a with phase := .stalled st (n + 1) } } := by
  rw [PortIf.tick, h]
  dsimp only
  rw [stalled]

theorem PortIf.tick_other {i : PortIf} (h : i.access = some a) (other : ∀ st n, a.phase ≠ .stalled st n) : i.tick = i := by
  rw [PortIf.tick, h]
  dsimp only
  split
  · rename_i st n stalled
    exact absurd stalled (other st n)
  · rfl

theorem Part.ticked_none (h : p.accessOf q = none) : (p.ticked timer).accessOf q = none := by
  rw [Part.accessOf, Part.ticked_get, PortIf.tick_none h]
  exact h

theorem Part.ticked_stalled {st : Stall} {n : Nat} (h : p.accessOf q = some a) (stalled : a.phase = .stalled st n) :
    (p.ticked timer).accessOf q = some { a with phase := .stalled st (n + 1) } := by
  rw [Part.accessOf, Part.ticked_get, PortIf.tick_stalled h stalled]

theorem Part.ticked_other (h : p.accessOf q = some a) (other : ∀ st n, a.phase ≠ .stalled st n) :
    (p.ticked timer).accessOf q = some a := by
  rw [Part.accessOf, Part.ticked_get, PortIf.tick_other h other]
  exact h

theorem Part.stallDue_none (h : p.accessOf q = none) : p.stallDue q = none := by
  rw [Part.stallDue, h]

theorem Part.stallDue_other (h : p.accessOf q = some a) (other : ∀ st n, a.phase ≠ .stalled st n) :
    p.stallDue q = none := by
  rw [Part.stallDue, h]
  dsimp only
  split
  · rename_i st n stalled
    exact absurd stalled (other st n)
  · rfl

theorem Part.stallDue_stalled {st : Stall} {n : Nat} (h : p.accessOf q = some a) (stalled : a.phase = .stalled st n) :
    p.stallDue q = if p.softReset ≠ .draining ∧ 0 < p.stallLimit ∧ p.stallLimit ≤ n then some st else none := by
  rw [Part.stallDue, h]
  dsimp only
  rw [stalled]

/-- A port at which no stall comes to its limit has none due at the tick (R44). -/
theorem Part.stallDue_ticked (h : p.noTimeoutNext q) : (p.ticked timer).stallDue q = none := by
  cases acc : p.accessOf q with
  | none => exact Part.stallDue_none (Part.ticked_none acc)
  | some a =>
    by_cases stalled : ∃ st n, a.phase = .stalled st n
    · obtain ⟨st, n, stalled⟩ := stalled
      rw [Part.stallDue_stalled (Part.ticked_stalled acc stalled) rfl]
      refine if_neg fun ⟨draining, limited, reached⟩ => ?_
      rcases h a st n acc stalled with e | e | e
      · exact draining e
      · have limited : 0 < p.stallLimit := limited
        omega
      · have reached : p.stallLimit ≤ n + 1 := reached
        omega
    · have other : ∀ st n, a.phase ≠ .stalled st n := fun st n e => stalled ⟨st, n, e⟩
      exact Part.stallDue_other (Part.ticked_other acc other) other

theorem Part.timeout_none (h : p.stallDue q = none) : p.timeout q = p := by
  rw [Part.timeout, h]

theorem Part.timeouts_none (a : p.stallDue .a = none) (b : p.stallDue .b = none) : p.timeouts = p := by
  rw [Part.timeouts, Part.timeout_none a, Part.timeout_none b]

theorem Part.anyStallDue_false (a : p.stallDue .a = none) (b : p.stallDue .b = none) : p.anyStallDue = false := by
  rw [Part.anyStallDue, a, b]
  rfl

end

/-! ## The tick -/

theorem Timer.tick_counted (t : Timer) : t.tick = t.counted := by
  unfold Timer.tick Timer.counted Timer.nextCount
  cases hs : t.source with
  | internal => simp
  | external => simp
  | command =>
    simp only [true_and]
    congr 1
    split_ifs <;> first | rfl | omega

theorem Timer.nextCount_timed {t : Timer} (h : t.source ≠ .command) : t.nextCount = t.count + 1 := by
  unfold Timer.nextCount
  cases hs : t.source with
  | internal => rfl
  | external => rfl
  | command => exact absurd hs h

section
variable {t : Timer}

theorem Timer.due_nothing (h : t.noBoundaryNext) : t.due t.nextCount = .nothing := by
  rcases h with source | ⟨source, short⟩ | ⟨source, sync, short⟩ | ⟨source, sync, short⟩
  · simp only [Timer.due, source]
  · rw [Timer.nextCount_timed (by rw [source]; nofun)]
    simp only [Timer.due, source]
    exact if_neg (by omega)
  · rw [Timer.nextCount_timed (by rw [source]; nofun)]
    simp only [Timer.due, source, sync]
    exact if_neg (by omega)
  · rw [Timer.nextCount_timed (by rw [source]; nofun)]
    simp only [Timer.due, source, sync]
    exact if_neg (by omega)

theorem Timer.due_period_iff : t.due t.nextCount = .period ↔ t.source = .internal ∧ t.period ≤ t.count + 1 := by
  unfold Timer.due Timer.nextCount
  cases t.source <;> cases t.sync <;> simp <;> split <;> simp_all

theorem Timer.due_flywheel_iff :
    t.due t.nextCount = .flywheel ↔ t.source = .external ∧ t.sync = .flywheel ∧ t.period ≤ t.count + 1 := by
  unfold Timer.due Timer.nextCount
  cases t.source <;> cases t.sync <;> simp <;> split <;> simp_all

theorem Timer.due_loss_iff :
    t.due t.nextCount = .loss ↔ t.source = .external ∧ t.sync = .locked ∧ t.period + t.guardTicks ≤ t.count + 1 := by
  unfold Timer.due Timer.nextCount
  cases t.source <;> cases t.sync <;> simp <;> split <;> simp_all

end

section
variable {p : Part} {first : PerPort Bool}

theorem Part.tick_plain (running : p.timer.running = true) (plain : p.timer.noBoundaryNext) :
    p.tick first = (p.ticked p.timer.counted).timeouts := by
  rw [Part.tick, if_pos running, Timer.due_nothing plain, Timer.tick_counted]
  rfl

/-- A tick that makes a boundary with no stall at its limit. -/
theorem Part.tick_due {d : Due} (running : p.timer.running = true) (due : p.timer.due p.timer.nextCount = d)
    (made : d ≠ .nothing) (a : (p.ticked p.timer.tick).stallDue .a = none) (b : (p.ticked p.timer.tick).stallDue .b = none) :
    p.tick first = (p.ticked p.timer.tick).dueBoundary d := by
  have quiet := Part.anyStallDue_false a b
  rw [Part.tick, if_pos running, due]
  dsimp only
  rw [if_neg made, Part.advanceStalls_ticked, quiet]
  rfl

/-- A tick that makes a boundary, whatever stalls are at their limits, the boundary first. -/
theorem Part.tick_boundaryFirst {d : Due} (running : p.timer.running = true) (due : p.timer.due p.timer.nextCount = d)
    (made : d ≠ .nothing) :
    p.tick ⟨false, false⟩ = (p.ticked p.timer.tick).dueBoundary d ∨
      ((p.ticked p.timer.tick).anyStallDue = true ∧
        p.tick ⟨false, false⟩ = ((p.ticked p.timer.tick).dueBoundary d).timeouts) := by
  rw [Part.tick, if_pos running, due]
  dsimp only
  rw [if_neg made, Part.advanceStalls_ticked]
  cases any : (p.ticked p.timer.tick).anyStallDue with
  | false => exact .inl rfl
  | true => exact .inr ⟨rfl, rfl⟩

end

/-- Settles O28: no boundary is due and no stall is at its limit. -/
theorem tickCounts : Obligations.TickCounts := by
  unfold Obligations.TickCounts
  intro s
  have tick : exec .tick s = .next (if s.part.timer.running then
      (s.tick ⟨(Config.freeWord s.freeIndex).getLsbD 0, (Config.freeWord s.freeIndex).getLsbD 1⟩).useFree else s) := rfl
  rw [tick]
  refine ⟨fun stopped => ?_, fun ⟨running, plain, a, b⟩ => ?_⟩
  · rw [stopped]
    rfl
  · rw [if_pos running, State.tick, Part.tick_plain running plain,
      Part.timeouts_none (Part.stallDue_ticked a) (Part.stallDue_ticked b)]
    rfl

end Sys2Proof.Machine
end

section
/-!
The tick at which the count makes a boundary (R114 to R116).
-/

namespace Sys2Proof.Machine

section
variable {p : Part} {timer : Timer} {q : Port}

/-! ## What a tick leaves -/

theorem Part.ticked_stalled_of {a : Access} {st : Stall} {n : Nat} (h : (p.ticked timer).accessOf q = some a)
    (stalled : a.phase = .stalled st n) : ∃ b m, p.accessOf q = some b ∧ b.phase = .stalled st m := by
  cases acc : p.accessOf q with
  | none =>
    rw [Part.ticked_none acc] at h
    cases h
  | some b =>
    by_cases waits : ∃ st' m, b.phase = .stalled st' m
    · obtain ⟨st', m, waits⟩ := waits
      rw [Part.ticked_stalled acc waits] at h
      cases h
      cases stalled
      exact ⟨b, m, rfl, waits⟩
    · rw [Part.ticked_other acc fun st' m e => waits ⟨st', m, e⟩] at h
      cases h
      exact absurd ⟨st, n, stalled⟩ waits

theorem Part.atRest_ticked (rest : p.atRest = true) : (p.ticked timer).atRest = true := by
  obtain ⟨copy, stalls⟩ := Part.atRest_iff.mp rest
  refine Part.atRest_iff.mpr ⟨copy, fun x => Part.stallHolds_iff.mpr fun a st n acc stalled => ?_⟩
  obtain ⟨b, m, before, waits⟩ := Part.ticked_stalled_of acc stalled
  exact Part.stallHolds_iff.mp (stalls x) b st m before waits

theorem Part.portRequests_ticked : (p.ticked timer).portRequests q = p.portRequests q := by
  cases acc : p.accessOf q with
  | none => rw [Part.portRequests_none acc, Part.portRequests_none (Part.ticked_none acc)]
  | some a =>
    by_cases stalled : ∃ st n, a.phase = .stalled st n
    · obtain ⟨st, n, stalled⟩ := stalled
      simp only [Part.portRequests, acc, Part.ticked_stalled acc stalled, stalled]
    · have other := Part.ticked_other (timer := timer) acc fun st n e => stalled ⟨st, n, e⟩
      rw [Part.portRequests, Part.portRequests, other, acc]

theorem Part.portContended_eq (p : Part) : p.portContended =
    (p.arbiter.access.isSome || p.touchRequests || allChannels.any p.channelRequests ||
      [Port.a, Port.b].any p.portRequests) := rfl

theorem Part.noIdleRequest_ticked (idle : p.noIdleRequest = true) : (p.ticked timer).noIdleRequest = true := by
  have requests : (p.ticked timer).portRequests = p.portRequests := funext fun _ => Part.portRequests_ticked
  have contended : (p.ticked timer).portContended = p.portContended := by
    rw [Part.portContended_eq, Part.portContended_eq, requests]
    rfl
  rw [Part.noIdleRequest, contended]
  exact idle

theorem Part.nothingWaits_ticked (still : p.nothingWaits) : (p.ticked timer).nothingWaits := by
  intro x a acc
  cases before : p.accessOf x with
  | none =>
    rw [Part.ticked_none before] at acc
    cases acc
  | some b =>
    obtain ⟨m, granted⟩ := still x b before
    rw [Part.ticked_other before (by rw [granted]; nofun)] at acc
    cases acc
    exact ⟨m, granted⟩

theorem Part.reaches_ticked (p : Part) (timer : Timer) : p.Reaches (p.ticked timer) where
  setting := ⟨rfl, rfl, rfl, rfl, rfl, rfl⟩
  routing _ := rfl
  standing h := h.congr rfl rfl rfl (Part.nothingWaits_ticked h.still)

/-- With no access waiting no stall is at its limit. -/
theorem Part.stallDue_still (still : p.nothingWaits) (x : Port) : p.stallDue x = none := by
  cases acc : p.accessOf x with
  | none => exact Part.stallDue_none acc
  | some a =>
    obtain ⟨m, granted⟩ := still x a acc
    exact Part.stallDue_other acc (by rw [granted]; nofun)

/-! ## The boundary of a tick -/

theorem Part.boundaryAt_ticked (p : Part) (timer made : Timer) :
    (p.ticked timer).boundaryAt made = (p.ticked p.timer).boundaryAt made := by
  rw [Part.boundaryAt, Part.boundaryAt]
  rfl

theorem Part.boundary_ticked (p : Part) (timer : Timer) :
    (p.ticked timer).boundary = (p.ticked p.timer).boundaryAt timer.boundary := by
  rw [Part.boundary_eq, Part.boundaryAt_ticked]
  rfl

theorem Timer.boundary_tick (t : Timer) : t.tick.boundary = t.atBoundary (decide (t.source ≠ .external)) := by
  rw [Timer.boundary_eq, Timer.pulse_eq]
  unfold Timer.atBoundary Timer.tick
  cases t.source <;> rfl

theorem Part.boundary_tick (p : Part) :
    (p.ticked p.timer.tick).boundary =
      (p.ticked p.timer).boundaryAt (p.timer.atBoundary (decide (p.timer.source ≠ .external))) := by
  rw [Part.boundary_ticked, Timer.boundary_tick]

theorem Part.loseLock_eq (p : Part) : p.loseLock = p.noteSync .flywheel .syncLost := rfl

theorem Part.boundaryAt_tickedRetiring (stopping : p.opState = .stopping)
    (retiring : ∀ w sv, p.service w = some sv → sv.retiring = true) (made : Timer) :
    (p.ticked p.timer).boundaryAt made = ({ (p.ticked p.timer) with timer := made }).noteGlobal .boundary :=
  Part.boundaryAt_retiring (p := p.ticked p.timer) stopping retiring made

/-- A part with its stalls ticked, at rest but for its timer and notices, stays as it is. -/
theorem Part.settle_tickedQuiet {r : Part} (rest : p.atRest = true) (idle : p.noIdleRequest = true)
    (ports : r.ports = (p.ticked p.timer).ports) (copy : r.copy = p.copy) (records : r.records = p.records)
    (access : r.arbiter.access = p.arbiter.access) : r.settle = r :=
  Part.settle_quiet (p := p.ticked p.timer) (Part.atRest_ticked rest) (Part.noIdleRequest_ticked idle) ports copy records
    access

/-- After the boundary of a tick in RUN, its event settled and stalls ended. -/
theorem Part.tick_boundaryMade {made : Timer} (run : p.opState = .run) {t : Part}
    (h : t = ((p.ticked p.timer).boundaryAt made).settle ∨
      ((p.ticked p.timer.tick).anyStallDue = true ∧ t = ((p.ticked p.timer).boundaryAt made).settle.timeouts)) :
    p.boundaryMade t made := by
  have reaches := (p.reaches_ticked p.timer).boundaryMade_plain (t := t) (timer := made) run
  have noneDue : p.Standing → (p.ticked p.timer.tick).anyStallDue = false := fun steady =>
    Part.anyStallDue_false (Part.stallDue_still (Part.nothingWaits_ticked steady.still) .a)
      (Part.stallDue_still (Part.nothingWaits_ticked steady.still) .b)
  generalize (p.ticked p.timer).boundaryAt made = b at reaches h
  have settled := Part.moves_settle (en := false) b
  have records := fun after : b.Standing => after.settle
  generalize b.settle = c at settled records h
  rcases h with h | ⟨due, h⟩
  · rw [h] at reaches ⊢
    exact reaches settled fun _ => records
  · rw [h] at reaches ⊢
    refine reaches (settled.trans c.moves_timeouts) fun steady _ => ?_
    rw [noneDue steady] at due
    cases due

/-- After the boundary of a tick that loses the lock in RUN. -/
theorem Part.tick_boundaryMade_loss {made : Timer} (run : p.opState = .run) {t : Part}
    (h : t = (((p.ticked p.timer).boundaryAt made).noteSync .flywheel .syncLost).settle ∨
      ((p.ticked p.timer.tick).anyStallDue = true ∧
        t = (((p.ticked p.timer).boundaryAt made).noteSync .flywheel .syncLost).settle.timeouts)) :
    p.boundaryMade t { made with sync := .flywheel } ∧ Part.globalPending p t .syncLost := by
  have reaches := (p.reaches_ticked p.timer).boundaryMade_noteSync (t := t) run made .flywheel .syncLost
  have noneDue : p.Standing → (p.ticked p.timer.tick).anyStallDue = false := fun steady =>
    Part.anyStallDue_false (Part.stallDue_still (Part.nothingWaits_ticked steady.still) .a)
      (Part.stallDue_still (Part.nothingWaits_ticked steady.still) .b)
  generalize (((p.ticked p.timer).boundaryAt made).noteSync .flywheel .syncLost).settle = c at reaches h
  rcases h with h | ⟨due, h⟩
  · rw [h] at reaches ⊢
    exact reaches (.refl _) fun _ => rfl
  · rw [h] at reaches ⊢
    refine reaches c.moves_timeouts fun steady => ?_
    rw [noneDue steady] at due
    cases due

end

/-! ## The three events -/

theorem Part.nextDue_iff {p : Part} {d : Due} (made : d ≠ .nothing) :
    p.nextDue = d ↔ p.timer.running = true ∧ p.timer.due p.timer.nextCount = d := by
  unfold Part.nextDue
  split
  · simp [*]
  · exact ⟨fun h => absurd h.symm made, fun h => absurd h.1 (by assumption)⟩

theorem exec_periodBoundary (s : State) :
    exec .periodBoundary s = .next (if s.part.nextDue = .period then s.onPart (s.part.tick ⟨false, false⟩) else s) := rfl

theorem exec_flywheelBoundary (s : State) :
    exec .flywheelBoundary s =
      .next (if s.part.nextDue = .flywheel then s.onPart (s.part.tick ⟨false, false⟩) else s) := rfl

theorem exec_syncLoss (s : State) :
    exec .syncLoss s = .next (if s.part.nextDue = .loss then s.onPart (s.part.tick ⟨false, false⟩) else s) := rfl

/-- The tick whose boundary settles at once, by what holds before it. -/
theorem Part.tick_settles {p : Part} {d : Due} {made : Timer} (running : p.timer.running = true)
    (due : p.timer.due p.timer.nextCount = d) (kind : d = .period ∨ d = .flywheel)
    (source : p.timer.atBoundary (decide (p.timer.source ≠ .external)) = made) :
    (p.noTimeoutNext .a ∧ p.noTimeoutNext .b →
      p.tick ⟨false, false⟩ = ((p.ticked p.timer).boundaryAt made).settle) ∧
    (p.opState = .run → p.boundaryMade (p.tick ⟨false, false⟩) made) := by
  have isMade : d ≠ .nothing := by rcases kind with rfl | rfl <;> nofun
  have boundary : (p.ticked p.timer.tick).dueBoundary d = ((p.ticked p.timer).boundaryAt made).settle := by
    rw [← source, ← Part.boundary_tick]
    rcases kind with rfl | rfl <;> rfl
  refine ⟨fun ⟨a, b⟩ => ?_, fun run => Part.tick_boundaryMade run ?_⟩
  · rw [Part.tick_due running due isMade (Part.stallDue_ticked a) (Part.stallDue_ticked b), boundary]
  · rw [← boundary]
    exact Part.tick_boundaryFirst running due isMade

theorem Part.tick_settles_loss {p : Part} {made : Timer} (running : p.timer.running = true)
    (due : p.timer.due p.timer.nextCount = .loss)
    (source : p.timer.atBoundary (decide (p.timer.source ≠ .external)) = made) :
    (p.noTimeoutNext .a ∧ p.noTimeoutNext .b →
      p.tick ⟨false, false⟩ = (((p.ticked p.timer).boundaryAt made).noteSync .flywheel .syncLost).settle) ∧
    (p.opState = .run →
      p.boundaryMade (p.tick ⟨false, false⟩) { made with sync := .flywheel } ∧
        Part.globalPending p (p.tick ⟨false, false⟩) .syncLost) := by
  have boundary : (p.ticked p.timer.tick).dueBoundary .loss =
      (((p.ticked p.timer).boundaryAt made).noteSync .flywheel .syncLost).settle := by
    rw [← source, ← Part.boundary_tick]
    rfl
  refine ⟨fun ⟨a, b⟩ => ?_, fun run => Part.tick_boundaryMade_loss run ?_⟩
  · rw [Part.tick_due running due (by decide) (Part.stallDue_ticked a) (Part.stallDue_ticked b), boundary]
  · rw [← boundary]
    exact Part.tick_boundaryFirst running due (by decide)

/-- Settles O30: the tick of each row; what it leaves with no stall at its limit, in STOPPING, and in RUN. -/
theorem countMakesBoundary : Obligations.CountMakesBoundary := by
  unfold Obligations.CountMakesBoundary
  intro s t period flywheel loss ticked lost noTimeout retiringOnly quiet
  have periodIff : s.part.nextDue = .period ↔ period := by
    rw [Part.nextDue_iff (by decide), Timer.due_period_iff]
  have flywheelIff : s.part.nextDue = .flywheel ↔ flywheel := by
    rw [Part.nextDue_iff (by decide), Timer.due_flywheel_iff]
  have lossIff : s.part.nextDue = .loss ↔ loss := by
    rw [Part.nextDue_iff (by decide), Timer.due_loss_iff]
  have quietIs : ∀ made, retiringOnly → (ticked.boundaryAt made).settle = quiet made := fun made h => by
    have alone : ticked.boundaryAt made = quiet made := Part.boundaryAt_tickedRetiring h.1 h.2.1 made
    rw [alone]
    exact Part.settle_tickedQuiet h.2.2.1 h.2.2.2 rfl rfl rfl rfl
  have lostIs : ∀ p, lost p = p.noteSync .flywheel .syncLost := fun _ => rfl
  rw [exec_periodBoundary, exec_flywheelBoundary, exec_syncLoss]
  refine ⟨fun h => ?_, fun h => ?_, fun h => ?_, fun h => by rw [if_neg (mt periodIff.mp h)],
    fun h => by rw [if_neg (mt flywheelIff.mp h)], fun h => by rw [if_neg (mt lossIff.mp h)]⟩
  · rw [if_pos (periodIff.mpr h)]
    have source : t.atBoundary (decide (t.source ≠ .external)) = t.atBoundary true := by rw [h.2.1]; rfl
    obtain ⟨settles, made⟩ := Part.tick_settles h.1 (Timer.due_period_iff.mpr h.2) (.inl rfl) source
    exact ⟨fun stands => by rw [settles stands]; rfl, fun ⟨stands, only⟩ => by rw [settles stands, ← quietIs _ only]; rfl,
      fun run => ⟨_, rfl, made run⟩⟩
  · rw [if_pos (flywheelIff.mpr h)]
    have source : t.atBoundary (decide (t.source ≠ .external)) = t.atBoundary false := by rw [h.2.1]; rfl
    obtain ⟨settles, made⟩ := Part.tick_settles h.1 (Timer.due_flywheel_iff.mpr h.2) (.inr rfl) source
    exact ⟨fun stands => by rw [settles stands]; rfl, fun ⟨stands, only⟩ => by rw [settles stands, ← quietIs _ only]; rfl,
      fun run => ⟨_, rfl, made run⟩⟩
  · rw [if_pos (lossIff.mpr h)]
    have source : t.atBoundary (decide (t.source ≠ .external)) = t.atBoundary false := by rw [h.2.1]; rfl
    obtain ⟨settles, made⟩ := Part.tick_settles_loss h.1 (Timer.due_loss_iff.mpr h.2) source
    refine ⟨fun stands => by rw [settles stands, lostIs]; rfl, fun ⟨stands, only⟩ => ?_,
      fun run => ⟨_, rfl, (made run).2, (made run).1⟩⟩
    have alone : ticked.boundaryAt (t.atBoundary false) = quiet (t.atBoundary false) :=
      Part.boundaryAt_tickedRetiring only.1 only.2.1 _
    have after : (lost (quiet (t.atBoundary false))).settle = lost (quiet (t.atBoundary false)) :=
      Part.settle_tickedQuiet only.2.2.1 only.2.2.2 rfl rfl rfl rfl
    rw [settles stands, ← after, ← alone, lostIs]
    rfl

end Sys2Proof.Machine
end

section
/-!
RUN (R134, R158): the apply of the whole stage, and the windows it enables.
-/

namespace Sys2Proof.Machine

/-! ## Enables one after another -/

/-- The enables of RUN at the windows of a list. -/
def Part.enablesOf (p : Part) (l : List Win) : Part :=
  l.foldl (fun q w => if (q.liveOf w).enable then q.enable w else q) p

theorem Part.enablesOf_nil (p : Part) : p.enablesOf [] = p := rfl

theorem Part.enablesOf_cons (p : Part) (w : Win) (rest : List Win) :
    p.enablesOf (w :: rest) = (if (p.liveOf w).enable then p.enable w else p).enablesOf rest := rfl

theorem allWindows_marked (w : Win) : (BitVec.allOnes 16).getLsbD w.val = true := by
  rw [BitVec.getLsbD_allOnes]
  exact decide_eq_true w.isLt

/-- With every window OFF the enables are a boundary's that applies to every window. -/
theorem Part.enablesOf_eq (l : List Win) : ∀ p : Part, l.Nodup → (∀ w ∈ l, p.service w = none) →
    p.enablesOf l = p.windowsAtBoundary (BitVec.allOnes 16) l := by
  induction l with
  | nil => exact fun _ _ _ => rfl
  | cons w rest ih =>
    intro p once off
    obtain ⟨absent, once⟩ := List.nodup_cons.mp once
    have own := off w List.mem_cons_self
    have marked := allWindows_marked w
    have step : (if (p.liveOf w).enable then p.enable w else p) =
        p.windowAtBoundary ((BitVec.allOnes 16).getLsbD w.val) w := by
      rw [marked]
      split
      · rw [Part.windowAtBoundary_enables own ⟨rfl, by assumption⟩]
      · rename_i disabled
        rw [Part.windowAtBoundary_off own (.inr (Bool.eq_false_iff.mpr disabled))]
    rw [Part.enablesOf_cons, step]
    refine ih _ once fun v hv => ?_
    have other : w ≠ v := fun e => absent (e ▸ hv)
    exact (p.untouched_windowAtBoundary _ other).same.service.trans (off v (List.mem_cons_of_mem _ hv))

theorem Part.windowsAtBoundary_record (p : Part) (applied : BitVec 16) (w : Win) :
    (p.windowsAtBoundary applied allWindows).record w = (p.windowAtBoundary (applied.getLsbD w.val) w).record w := by
  obtain ⟨q, after, before, later, whole⟩ := p.windowsAtBoundary_around applied w
  rw [whole, (Part.untouched_windowsAtBoundary _ after _ later).record, before.same.windowAtBoundary]

theorem Part.windowsAtBoundary_calm (applied : BitVec 16) (l : List Win) : ∀ p : Part,
    Part.Calm p (p.windowsAtBoundary applied l) := by
  induction l with
  | nil => exact .refl
  | cons w rest ih => exact fun p => (p.calm_windowAtBoundary w _).trans (ih _)

section
variable {p : Part}

theorem Part.enablesOf_record (off : ∀ w, p.service w = none) (w : Win) :
    (p.enablesOf allWindows).record w = if (p.liveOf w).enable then .setUp (p.liveOf w) else p.record w := by
  rw [Part.enablesOf_eq allWindows p (by decide) fun w _ => off w, Part.windowsAtBoundary_record]
  have marked := allWindows_marked w
  rw [marked]
  split
  · rw [Part.windowAtBoundary_enables (off w) ⟨rfl, by assumption⟩, Part.enable_record]
  · rename_i disabled
    rw [Part.windowAtBoundary_off (off w) (.inr (Bool.eq_false_iff.mpr disabled))]

theorem Part.enablesOf_notices (off : ∀ w, p.service w = none) (w : Win) (x : Port) :
    ((p.enablesOf allWindows).notices.get x).window[w] =
      if (p.liveOf w).enable then roleKeeps (decide ((p.liveOf w).producer = x)) (p.notices.get x).window[w]
      else (p.notices.get x).window[w] := by
  rw [Part.enablesOf_eq allWindows p (by decide) fun w _ => off w]
  have marked := allWindows_marked w
  split
  · exact (Part.windowsAtBoundary_enables (off w) marked (by assumption)).2 x
  · rename_i disabled
    obtain ⟨q, after, before, later, whole⟩ := p.windowsAtBoundary_around (BitVec.allOnes 16) w
    have stays : q.windowAtBoundary ((BitVec.allOnes 16).getLsbD w.val) w = q :=
      Part.windowAtBoundary_off (before.same.service.trans (off w)) (.inr (by rw [before.live]; simpa using disabled))
    rw [whole, stays, (Part.untouched_windowsAtBoundary _ after _ later).notices, before.notices]

theorem Part.enablesOf_calm (off : ∀ w, p.service w = none) : Part.Calm p (p.enablesOf allWindows) := by
  rw [Part.enablesOf_eq allWindows p (by decide) fun w _ => off w]
  exact Part.windowsAtBoundary_calm _ allWindows p

end

/-! ## The waiting list and the channels under enables -/

theorem Part.enable_copy (p : Part) (w : Win) :
    (p.enable w).copy = if p.copyStatus w = .none then { p.copy with waiting := p.copy.waiting ++ [⟨w, .catchUp, false⟩] }
      else p.copy := by
  have status : ((p.setRecord w (Record.enabled (p.liveOf w))).clearRoleNotices w (p.liveOf w).producer).copyStatus w =
      p.copyStatus w := Part.copyStatus_congr (p := p) rfl w
  rw [Part.enable, Part.join, status]
  split <;> rfl

/-- What an enable leaves alone in the Copy Engine. -/
theorem Part.enable_engine (p : Part) (w : Win) : (p.enable w).copy.channels = p.copy.channels ∧
    (p.enable w).copy.touch = p.copy.touch ∧ (p.enable w).copy.queue = p.copy.queue ∧
    (p.enable w).copy.deferred = p.copy.deferred := by
  rw [Part.enable_copy]
  split <;> exact ⟨rfl, rfl, rfl, rfl⟩

theorem Part.enablesOf_engine (l : List Win) : ∀ p : Part, (p.enablesOf l).copy.channels = p.copy.channels ∧
    (p.enablesOf l).copy.touch = p.copy.touch ∧ (p.enablesOf l).copy.queue = p.copy.queue ∧
    (p.enablesOf l).copy.deferred = p.copy.deferred := by
  induction l with
  | nil => exact fun _ => ⟨rfl, rfl, rfl, rfl⟩
  | cons w rest ih =>
    intro p
    obtain ⟨channels, touch, queue, deferred⟩ := ih (if (p.liveOf w).enable then p.enable w else p)
    obtain ⟨channels', touch', queue', deferred'⟩ := p.enable_engine w
    rw [Part.enablesOf_cons, channels, touch, queue, deferred]
    split
    · exact ⟨channels', touch', queue', deferred'⟩
    · exact ⟨rfl, rfl, rfl, rfl⟩

theorem Part.enable_live (p : Part) (w v : Win) : (p.enable w).liveOf v = p.liveOf v := by
  rw [Part.liveOf, (p.moves_enable w).live]
  rfl

/-- With the list empty before them, the enables leave it orderly, with CATCH_UP entries of enabled windows alone. -/
theorem Part.enablesOf_orderly (l : List Win) : ∀ p : Part, p.Orderly →
    (∀ e ∈ p.copy.waiting, e.job = .catchUp ∧ (p.liveOf e.window).enable = true) →
    (p.enablesOf l).Orderly ∧
      ∀ e ∈ (p.enablesOf l).copy.waiting, e.job = .catchUp ∧ (p.liveOf e.window).enable = true := by
  induction l with
  | nil => exact fun _ orderly entries => ⟨orderly, entries⟩
  | cons w rest ih =>
    intro p orderly entries
    rw [Part.enablesOf_cons]
    split
    case isFalse => exact ih p orderly entries
    case isTrue enable =>
      have live : (p.enable w).liveOf = p.liveOf := funext fun v => p.enable_live w v
      have next := ih (p.enable w)
      rw [live] at next
      have channel : ∀ c, (p.enable w).channel c = p.channel c := fun c => by
        simp only [Part.channel, (p.enable_engine w).1]
      have copy := p.enable_copy w
      by_cases place : p.copyStatus w = .none
      · rw [if_pos place] at copy
        have noPlace := Part.copyStatus_none_iff.mp place
        have windows : (p.enable w).waitingWindows = p.waitingWindows ++ [w] := by
          rw [Part.waitingWindows, copy, List.map_append]
          rfl
        refine next ⟨?_, fun c v served => ?_⟩ fun e he => ?_
        · rw [windows]
          exact List.Nodup.append orderly.once (List.nodup_singleton w)
            (by simpa using fun hw : w ∈ p.waitingWindows => noPlace (.inl hw))
        · rw [channel] at served
          rw [windows, List.mem_append, List.mem_singleton, not_or]
          exact ⟨orderly.apart c v served, fun e => noPlace (.inr ⟨c, e ▸ served⟩)⟩
        · rw [copy] at he
          rcases List.mem_append.mp he with old | new
          · exact entries e old
          · cases List.mem_singleton.mp new
            exact ⟨rfl, enable⟩
      · rw [if_neg place] at copy
        refine next ⟨?_, fun c v served => ?_⟩ fun e he => ?_
        · rw [Part.waitingWindows, copy]
          exact orderly.once
        · rw [Part.waitingWindows, copy]
          exact orderly.apart c v (channel c ▸ served)
        · rw [copy] at he
          exact entries e he

/-- With no window served, and none of the list waiting, the enabled ones join in the list's order. -/
theorem Part.enablesOf_waiting (l : List Win) : ∀ p : Part, (∀ c, (p.channel c).work.served? = none) → l.Nodup →
    (∀ w ∈ l, w ∉ p.waitingWindows) →
    (p.enablesOf l).copy.waiting =
      p.copy.waiting ++ (l.filter (fun w => (p.liveOf w).enable)).map (fun w => ⟨w, .catchUp, false⟩) := by
  induction l with
  | nil => exact fun p _ _ _ => (List.append_nil _).symm
  | cons w rest ih =>
    intro p idle once absent
    obtain ⟨first, once⟩ := List.nodup_cons.mp once
    have later : ∀ v ∈ rest, v ∉ p.waitingWindows := fun v hv => absent v (List.mem_cons_of_mem _ hv)
    rw [Part.enablesOf_cons, List.filter_cons]
    split
    case isFalse => exact ih p idle once later
    case isTrue enable =>
      have live : (p.enable w).liveOf = p.liveOf := funext fun v => p.enable_live w v
      have channel : ∀ c, (p.enable w).channel c = p.channel c := fun c => by
        simp only [Part.channel, (p.enable_engine w).1]
      have noPlace : ¬ p.hasPlace w := by
        rintro (waits | ⟨c, served⟩)
        · exact absent w List.mem_cons_self waits
        · rw [idle c] at served
          cases served
      have copy := p.enable_copy w
      rw [if_pos (Part.copyStatus_none_iff.mpr noPlace)] at copy
      have windows : (p.enable w).waitingWindows = p.waitingWindows ++ [w] := by
        rw [Part.waitingWindows, copy, List.map_append]
        rfl
      rw [ih (p.enable w) (fun c => by rw [channel]; exact idle c) once fun v hv => ?_, live, copy, List.map_cons,
        List.append_assoc]
      · rfl
      · rw [windows, List.mem_append, List.mem_singleton, not_or]
        exact ⟨later v hv, fun e => first (e ▸ hv)⟩

end Sys2Proof.Machine
end

section
/-!
RUN as a command of the management link (R134, R158).
-/

namespace Sys2Proof.Machine

/-! ## The part that enters RUN -/

/-- The part as RUN finds it before the enables: the stage live, its marks and REJECTED clear, the timer started. -/
def Part.atRun (p : Part) : Part :=
  { p with
    live := p.staging.staged
    staging := { p.staging with changed := 0#16, rejected := false }
    opState := .run
    timer := p.timer.start }

theorem Part.enterRun_eq (p : Part) : p.enterRun = (p.atRun.enablesOf allWindows).settle := rfl

theorem Part.portRequests_congr {p q : Part} (ports : q.ports = p.ports) (x : Port) :
    q.portRequests x = p.portRequests x := by
  simp only [Part.portRequests, Part.accessOf, ports]

section
variable {p : Part}

/-- With every window OFF nothing is held in a window stall (R29). -/
theorem Part.noStall_of_off (off : ∀ w, p.service w = none) (rest : p.atRest = true) (x : Port) (a : Access) (st : Stall)
    (k : Nat) (acc : p.accessOf x = some a) : a.phase ≠ .stalled st k := by
  intro stalled
  have holds := Part.stallHolds_iff.mp ((Part.atRest_iff.mp rest).2 x) a st k acc stalled
  cases st <;> simp [Part.stallEnded, off] at holds

/-- Nothing requests a free memory port. -/
theorem Part.noPortRequest_of_idle (idle : p.noIdleRequest = true) :
    p.arbiter.access.isSome = true ∨ ∀ x, p.portRequests x = false := by
  rw [Part.noIdleRequest, Bool.or_eq_true, Part.portContended_eq] at idle
  refine idle.imp id fun none x => ?_
  simp only [Bool.not_eq_true', Bool.or_eq_false_iff] at none
  exact Bool.eq_false_iff.mpr (List.any_eq_false.mp none.2 x (by cases x <;> simp))

theorem firstLines_ne_zero {n : Nat} (h : 1 ≤ n) : firstLines n ≠ 0#64 := by
  intro zero
  have bit : (firstLines n).getLsbD 0 = true := by
    rw [firstLines, BitVec.getLsbD_ofNat, Nat.testBit_two_pow_sub_one]
    simp only [Nat.zero_lt_succ, decide_true, Bool.true_and, decide_eq_true_iff]
    exact h
  rw [zero] at bit
  cases bit

/-- After the enables of RUN, settling changes no record and no notice. -/
theorem Part.steady_enables (off : ∀ w, p.service w = none) (rest : p.atRest = true) (idle : p.noIdleRequest = true)
    (lengths : ∀ w, 1 ≤ (p.liveOf w).length) :
    Part.Steady (p.enablesOf allWindows).records (some (p.enablesOf allWindows).notices) (p.enablesOf allWindows) := by
  obtain ⟨ports, arbiter, lineless⟩ := Part.enablesOf_calm off
  obtain ⟨channels, -⟩ := p.enablesOf_engine allWindows
  obtain ⟨holds, jobs, -⟩ := Part.atRest_iff_queues.mp rest
  have records := Part.enablesOf_record off
  have entries := p.enablesOf_orderly allWindows
  generalize p.enablesOf allWindows = q at *
  refine ⟨rfl, fun m hm => Option.mem_some.mp hm, ?_, fun c w job serves => ?_, fun x a st k acc => ?_, ?_⟩
  · refine jobs.imp (fun free => ?_) fun empty => ?_
    · rw [Part.freeChannel?_channels channels]
      exact free
    · have nobody : p.waitingWindows = [] := by rw [Part.waitingWindows, empty]; rfl
      have start : p.Orderly :=
        ⟨by rw [nobody]; exact List.nodup_nil, fun c w _ => by rw [nobody]; exact List.not_mem_nil⟩
      obtain ⟨orderly, entries⟩ := entries start fun e he => by rw [empty] at he; cases he
      refine ⟨orderly, fun e he sv hs => .inl ?_⟩
      obtain ⟨job, enable⟩ := entries e he
      have record := records e.window
      rw [if_pos enable] at record
      have fresh : (Record.setUp (p.liveOf e.window)).service = some sv := by rw [← record]; exact hs
      rw [job]
      cases fresh
      exact firstLines_ne_zero (lengths e.window)
  · obtain ⟨⟨v, job', before⟩, masked⟩ := lineless c w job serves
    rw [masked]
    exact (Part.channelHolds_iff.mp (holds c) v job' before).1
  · exact Part.noStall_of_off off rest x a st k (by rw [Part.accessOf, ← ports]; exact acc)
  · rw [arbiter]
    exact (Part.noPortRequest_of_idle idle).imp id fun none x => (Part.portRequests_congr ports x).trans (none x)

/-- With every channel masked and none serving, the enables begin no work. -/
theorem Part.settle_enables (off : ∀ w, p.service w = none) (rest : p.atRest = true) (idle : p.noIdleRequest = true)
    (masked : ∀ c, (p.channel c).masked = true) (unserved : ∀ c w job cp, (p.channel c).work ≠ .serving w job cp) :
    (p.enablesOf allWindows).settle = p.enablesOf allWindows := by
  obtain ⟨ports, arbiter, -⟩ := Part.enablesOf_calm off
  obtain ⟨channels, touch, queue, deferred⟩ := p.enablesOf_engine allWindows
  obtain ⟨-, -, touchHolds, deferredHolds, -⟩ := Part.atRest_iff_queues.mp rest
  have channel : ∀ c, (p.enablesOf allWindows).channel c = p.channel c := fun c => by simp only [Part.channel, channels]
  have marks : ∀ w, (p.enablesOf allWindows).inCopyLines w = p.inCopyLines w := fun w =>
    Part.inCopyLines_of_marks (fun c => by rw [channel]) (by rw [touch])
  generalize p.enablesOf allWindows = q at *
  have rest' : q.atRest = true := by
    refine Part.atRest_iff_queues.mpr ⟨fun c => ?_, .inl ?_, ?_, fun x => ?_, fun x => ?_⟩
    · exact Part.channelHolds_iff.mpr fun w job serves => absurd (channel c ▸ serves) (unserved c w job none)
    · exact List.find?_eq_none.mpr fun c _ => by rw [channel, masked]; simp
    · rw [touch, queue]
      exact touchHolds.imp id fun queued e he hs => by rw [marks]; exact queued e he hs
    · have same : q.deferredHolds x = p.deferredHolds x := by
        simp only [Part.deferredHolds, Part.touchDraining, touch, queue, deferred]
      rw [same]
      exact deferredHolds x
    · refine Part.stallHolds_iff.mpr fun a st k acc stalled => ?_
      exact absurd stalled (Part.noStall_of_off off rest x a st k (by rw [Part.accessOf, ← ports]; exact acc))
  have idle' : q.noIdleRequest = true := by
    have requests : q.portRequests = p.portRequests := funext fun x => Part.portRequests_congr ports x
    have channelRequests : q.channelRequests = p.channelRequests :=
      funext fun c => by rw [Part.channelRequests, Part.channelRequests, channel]
    have same : q.noIdleRequest = p.noIdleRequest := by
      rw [Part.noIdleRequest, Part.noIdleRequest, Part.portContended_eq, Part.portContended_eq, requests, channelRequests,
        arbiter, Part.touchRequests, Part.touchRequests, touch]
    rw [same]
    exact idle
  exact Part.settle_idle rest' idle'

end

/-! ## The command -/

theorem exec_run_given {s : State} (gives : s.frameGives .run = true) : exec .run s = .next s.frameEnded.takeRun :=
  congrArg Host.Outcome.next (State.frameEnd_given gives)

theorem State.takeRun_run {s : State} (h : s.part.opState = .run) : s.takeRun = s.result .refused := by
  rw [State.takeRun, h]

theorem State.takeRun_stopping {s : State} (h : s.part.opState = .stopping) : s.takeRun = s.result .busy := by
  rw [State.takeRun, h]

theorem State.takeRun_standby {s : State} (h : s.part.opState = .standby) :
    s.takeRun = if s.part.setCheckRun then s.carryOut Part.enterRun else s.result .conflict := by
  rw [State.takeRun, h]

/-- Settles O44: the reply by the state and the set check; then the enables, and what their settling leaves. -/
theorem runCommand : Obligations.RunCommand := by
  unfold Obligations.RunCommand
  intro s gives fits d
  have checked : s.part.setCheckRun = true ↔ fits := s.part.setCheckRun_iff
  rw [exec_run_given gives]
  refine ⟨fun h => ?_, fun h => ?_, fun ⟨h, meet⟩ => ?_, fun ⟨h, fit, off, rest, idle, lengths⟩ => ?_⟩
  · rw [State.takeRun_run (s := s.frameEnded) h]
    rfl
  · rw [State.takeRun_stopping (s := s.frameEnded) h]
    rfl
  · rw [State.takeRun_standby (s := s.frameEnded) h]
    rw [show s.frameEnded.part.setCheckRun = false from Bool.eq_false_iff.mpr (mt checked.mp meet)]
    rfl
  · have rest' : s.part.atRun.atRest = true := Part.atRest_congr (p := s.part) rfl rfl (fun _ => rfl) rest
    have idle' : s.part.atRun.noIdleRequest = true := Part.noIdleRequest_congr (p := s.part) rfl rfl rfl idle
    have taken : s.frameEnded.takeRun = s.replied (s.part.atRun.enablesOf allWindows).settle [0x01#8] := by
      rw [State.takeRun_standby (s := s.frameEnded) h, if_pos (show s.frameEnded.part.setCheckRun = true from checked.mpr fit),
        State.carryOut_frameEnded, Part.enterRun_eq]
    have enables : Part.Moves true s.part.atRun (s.part.atRun.enablesOf allWindows) :=
      Part.moves_foldl (fun q w => by
        split
        · exact q.moves_enable w
        · exact .refl q) allWindows s.part.atRun
    have records := Part.enablesOf_record (p := s.part.atRun) off
    have notices := Part.enablesOf_notices (p := s.part.atRun) off
    have steady := Part.steady_enables (p := s.part.atRun) off rest' idle' fun w => (lengths w).1
    have quiet := Part.settle_enables (p := s.part.atRun) off rest' idle'
    have waiting := Part.enablesOf_waiting allWindows s.part.atRun
    generalize s.part.atRun.enablesOf allWindows = q at *
    obtain ⟨settledRecords, settledNotices⟩ := steady.settle
    have moves := enables.trans q.moves_settle
    obtain ⟨timer, opState⟩ := moves.control.resolve_right fun ⟨stopping, _⟩ => nomatch stopping
    refine ⟨q.settle, by rw [taken], opState, moves.live, moves.staging, timer, fun w => ?_, fun w x => ?_,
      fun ⟨empty, free⟩ => ?_⟩
    · have same : q.settle.record w = q.record w := by rw [Part.record, settledRecords]; rfl
      rw [same, records]
      rfl
    · rw [settledNotices _ rfl, notices]
      rfl
    · rw [quiet (fun c => (free c).1) (fun c => (free c).2), waiting (fun c => ?_) (by decide) fun w _ => ?_]
      · rw [show s.part.atRun.copy.waiting = [] from empty]
        rfl
      · have noServe := (free c).2
        change ((s.part.channel c).work).served? = none
        cases hk : (s.part.channel c).work with
        | idle => rfl
        | draining w cp => rfl
        | serving w job cp => exact absurd hk (noServe w job cp)
      · rw [Part.waitingWindows, show s.part.atRun.copy.waiting = [] from empty]
        exact List.not_mem_nil

end Sys2Proof.Machine
end

section
/-!
The end of a drained line (R76, R95): its copier is idle, no window changes, and the copier takes what waits.
-/

namespace Sys2Proof.Machine

/-! ## A copier that has drained its line -/

theorem Part.deliver_channelEnd {p : Part} {m : MemAccess} {c : Chan} {cp : LineCopy} (own : m.requestor = .channel c)
    (has : (p.channel c).work.lineCopy? = some cp) (write : m.write = true) (last : cp.word = 15) (word : Word) :
    p.deliver m word = p.channelLineEnd c := by
  simp only [Part.deliver, own, Part.channelWordDone, has, write, if_true, last]

theorem Part.deliver_touchEnd {p : Part} {m : MemAccess} {cp : LineCopy} (own : m.requestor = .touch)
    (has : p.copy.touch.work.lineCopy? = some cp) (write : m.write = true) (last : cp.word = 15) (word : Word) :
    p.deliver m word = p.touchLineEnd := by
  simp only [Part.deliver, own, Part.touchWordDone, has, write, if_true, last]

theorem Part.channelLineEnd_draining {p : Part} {c : Chan} {w : Win} {cp : LineCopy}
    (work : (p.channel c).work = .draining w cp) : p.channelLineEnd c = p.setChannelWork c .idle := by
  rw [Part.channelLineEnd, work]

theorem Part.touchLineEnd_draining {p : Part} {w : Win} {cp : LineCopy} (work : p.copy.touch.work = .draining w cp) :
    p.touchLineEnd = p.withTouch ⟨.idle, p.copy.touch.holding⟩ := by
  rw [Part.touchLineEnd, work]
  rfl

/-- The lines marked in copy are those of the channels' and the touch copier's marks. -/
theorem Part.inCopyLines_of_work {p q : Part} {v : Win}
    (channels : ∀ c, (q.channel c).work.mark v = (p.channel c).work.mark v)
    (touch : q.copy.touch.work.mark v = p.copy.touch.work.mark v) : q.inCopyLines v = p.inCopyLines v := by
  simp only [Part.inCopyLines, Part.channelMarks, channels, touch]

theorem Part.inCopyLines_setIdle {p : Part} {c : Chan} (unmarked : ∀ v, (p.channel c).work.mark v = noLines) (v : Win) :
    (p.setChannelWork c .idle).inCopyLines v = p.inCopyLines v := by
  refine Part.inCopyLines_of_work (fun d => ?_) rfl
  rw [p.work_setChannelWork]
  split
  case isTrue e => rw [e, unmarked]; rfl
  case isFalse => rfl

/-- A channel without a mark becomes idle: the others have no more to do than before. -/
theorem Part.channelHolds_setIdle {p : Part} {c : Chan} (unmarked : ∀ v, (p.channel c).work.mark v = noLines) {d : Chan}
    (h : d ≠ c → p.channelHolds d = true) : (p.setChannelWork c .idle).channelHolds d = true := by
  by_cases own : d = c
  · subst own
    exact Part.channelHolds_of_idle ((p.work_setChannelWork d d .idle).trans (if_pos rfl))
  · refine Part.channelHolds_iff.mpr fun w job serves => ?_
    rw [p.work_setChannelWork, if_neg own] at serves
    obtain ⟨unmasked, within⟩ := Part.channelHolds_iff.mp (h own) w job serves
    refine ⟨(p.masked_setChannelWork c d .idle).trans unmasked, fun sv hs l hl => ?_⟩
    rw [Part.inCopyLines_setIdle unmarked]
    exact within sv hs l hl

theorem Part.QueuesHold.setIdle {p : Part} (h : p.QueuesHold) {c : Chan}
    (unmarked : ∀ v, (p.channel c).work.mark v = noLines) : (p.setChannelWork c .idle).QueuesHold where
  touch := h.touch.imp id fun queued e he hs => by
    rw [Part.inCopyLines_setIdle unmarked]
    exact queued e he hs
  deferred := h.deferred
  stalls q := by
    refine Part.stallHolds_iff.mpr fun a st n ha hp => ?_
    rw [Part.stallEnded_congr (p := p) (q := p.setChannelWork c .idle) rfl (fun _ => rfl)]
    exact Part.stallHolds_iff.mp (h.stalls q) a st n ha hp

/-- No channel is idle and unmasked. -/
theorem Part.freeChannel?_none_iff {p : Part} :
    p.freeChannel? = none ↔ ∀ d, (p.channel d).work = .idle → (p.channel d).masked = true := by
  refine ⟨fun none d => Part.freeChannel?_none_of_idle none, fun all => List.find?_eq_none.mpr fun d _ => ?_⟩
  by_cases h : (p.channel d).work = .idle
  · simp [h, all d h]
  · simp [h]

theorem Part.freeChannel?_eq_of_only {p : Part} {c : Chan} (idle : (p.channel c).work = .idle)
    (unmasked : (p.channel c).masked = false)
    (others : ∀ d, d ≠ c → (p.channel d).work = .idle → (p.channel d).masked = true) : p.freeChannel? = some c := by
  cases h : p.freeChannel? with
  | none =>
    have := Part.freeChannel?_none_of_idle h idle
    rw [unmasked] at this
    cases this
  | some d =>
    obtain ⟨dIdle, dUnmasked⟩ := Part.freeChannel?_spec h
    by_cases same : d = c
    · rw [same]
    · rw [others d same dIdle] at dUnmasked
      cases dUnmasked

/-- A channel that goes over to a line of a job leaves nobody free where the others are not. -/
theorem Part.freeChannel?_none_serving {p : Part} {c : Chan}
    (others : ∀ d, d ≠ c → (p.channel d).work = .idle → (p.channel d).masked = true) (w : Win) (job : Job)
    (copy : Option LineCopy) : (p.setChannelWork c (.serving w job copy)).freeChannel? = none := by
  refine Part.freeChannel?_none_iff.mpr fun d idle => ?_
  rw [p.work_setChannelWork] at idle
  rw [p.masked_setChannelWork]
  by_cases same : d = c
  · rw [if_pos same] at idle
    cases idle
  · rw [if_neg same] at idle
    exact others d same idle

theorem ChannelWork.mark_draining (w v : Win) (cp : LineCopy) : (ChannelWork.draining w cp).mark v = noLines := rfl

theorem lessLines_noLines (s : LineSet) : lessLines s noLines = s := by
  unfold lessLines noLines
  rw [BitVec.not_zero, BitVec.and_allOnes]

theorem Part.touch_mark_of_noRequest {p : Part} (touch : p.touchRequests = false) (v : Win) :
    p.copy.touch.work.mark v = noLines := by
  cases hk : p.copy.touch.work with
  | idle => rfl
  | copying w cp => simp [Part.touchRequests, hk, TouchWork.lineCopy?] at touch
  | draining w cp => rfl

/-- A window that no channel serves and the touch copier does not copy has no line in copy. -/
theorem Part.inCopyLines_none {p : Part} {v : Win} (channels : ∀ c, (p.channel c).work.served? ≠ some v)
    (touch : p.copy.touch.work.mark v = noLines) : p.inCopyLines v = noLines := by
  refine eq_noLines_iff.mpr fun l => Bool.eq_false_iff.mpr fun marked => ?_
  rcases Part.lineIn_inCopyLines.mp marked with ⟨c, hc⟩ | ht
  · obtain ⟨job, cp, serves, -⟩ := ChannelWork.lineIn_mark.mp hc
    exact channels c (ChannelWork.served?_iff.mpr ⟨job, some cp, serves⟩)
  · rw [touch, lineIn_noLines] at ht
    cases ht

/-- A channel has become idle and no channel takes a job: the memory port stays free. -/
theorem Part.offer_channelIdle {p : Part} {c : Chan} (only : p.onlyChannelActive c) :
    (p.setChannelWork c .idle).portFree.offer = (p.setChannelWork c .idle).portFree := by
  obtain ⟨touch, others, ports⟩ := only
  refine Part.offer_noRequest touch (fun d => ?_) (ports .a) (ports .b)
  change (p.setChannelWork c .idle).channelRequests d = false
  rw [p.channelRequests_setChannelWork]
  split
  · rfl
  · exact others d ‹_›

/-- A drained channel takes the head of the waiting list (R78, R95). -/
theorem Part.finishAccess_drainedTakes {p : Part} {m : MemAccess} {word : Word} {c : Chan} {w : Win} {cp : LineCopy}
    {e : WaitEntry} {rest : List WaitEntry} {sv : Service} {line : Nat} (busy : p.arbiter.access.isSome = true)
    (soft : p.softReset = .none) (atRest : p.atRest = true) (only : p.onlyChannelActive c)
    (work : (p.channel c).work = .draining w cp) (unmasked : (p.channel c).masked = false)
    (waiting : p.copy.waiting = e :: rest) (jobs : p.JobsOk) (hs : p.service e.window = some sv)
    (lowest : lowestLine? (sv.stale.get (sv.jobTarget e.job)) = some line)
    (delivered : p.deliver m word = p.setChannelWork c .idle) :
    p.finishAccess m word = ((p.setChannelWork c .idle).portFree.setWaiting rest).jobTaken c e.window e.job sv line := by
  obtain ⟨holds, free, queues⟩ := Part.atRest_iff_queues.mp atRest
  have unmarked : ∀ v, (p.channel c).work.mark v = noLines := fun v => by rw [work]; rfl
  have noneFree : p.freeChannel? = none := free.resolve_right fun h => by rw [waiting] at h; cases h
  have others : ∀ d, d ≠ c → ((p.setChannelWork c .idle).channel d).work = .idle →
      ((p.setChannelWork c .idle).channel d).masked = true := fun d hd idle => by
    rw [p.work_setChannelWork, if_neg hd] at idle
    rw [p.masked_setChannelWork]
    exact Part.freeChannel?_none_iff.mp noneFree d idle
  have notServed : ∀ d, (p.channel d).work.served? ≠ some e.window := fun d served =>
    jobs.apart d e.window served (List.mem_map.mpr ⟨e, by rw [waiting]; exact List.mem_cons_self, rfl⟩)
  have noCopy : (p.setChannelWork c .idle).inCopyLines e.window = noLines := by
    rw [Part.inCopyLines_setIdle unmarked]
    exact Part.inCopyLines_none notServed (Part.touch_mark_of_noRequest only.1 _)
  obtain ⟨rest', round⟩ := Part.round_takes (p := p.setChannelWork c .idle) (c := c) (e := e) (l := rest) (sv := sv)
    (line := line) (fun d => Part.channelHolds_setIdle unmarked fun _ => holds d) (queues.setIdle unmarked)
    (Part.freeChannel?_eq_of_only ((p.work_setChannelWork c c .idle).trans (if_pos rfl))
      ((p.masked_setChannelWork c c .idle).trans unmasked) others) waiting hs
    (fun d hd => by rw [p.work_setChannelWork, if_neg hd]; exact notServed d)
    (fun k => .inl (Part.freeChannel?_none_serving others _ _ _)) (by rw [noCopy, lessLines_noLines]; exact lowest)
  have contended : (p.setChannelWork c .idle).portContended = true := by
    have busy' : (p.setChannelWork c .idle).arbiter.access.isSome = true := busy
    unfold Part.portContended
    rw [busy']
    rfl
  rw [if_pos contended] at round
  obtain ⟨touch, channels, ports⟩ := only
  unfold Part.finishAccess
  rw [delivered, round, Part.round_rest rest', Part.jobTaken_eq]
  refine (Part.offer_begins (p := (p.setChannelWork c .idle).portFree.setWaiting rest) (c := c) (w := e.window)
    (job := e.job) (cp := sv.startLine (sv.jobSource e.job) (sv.jobTarget e.job) line)
    (by simp [Part.portFree, Part.setWaiting, soft]) fun _ => ⟨touch, fun d hd => ?_, ports⟩)
  change (p.setChannelWork c .idle).channelRequests d = false
  rw [p.channelRequests_setChannelWork, if_neg hd]
  exact channels d hd

/-! ## The touch copier that has drained its line -/

/-- Nobody takes a job: the rest of a round is the touch copier's, the deferred requests' and the held accesses'. -/
theorem Part.round_touch {p q : Part} (channels : ∀ d, p.channelHolds d = true)
    (jobs : p.freeChannel? = none ∨ p.copy.waiting = []) (takes : p.touchTake = q) (rest : q.atRest = true) :
    p.round = q := by
  have steps : p.stepChannels = p := by
    have : ∀ d, p.channelStep d = p := fun d => Part.channelStep_rest (channels d)
    simp only [Part.stepChannels, this]
  have none : Part.takeJobs takeFuel p = p := by
    unfold takeFuel Part.takeJobs
    rcases jobs with h | h <;> simp [h]
  obtain ⟨copy, stalls⟩ := Part.atRest_iff.mp rest
  unfold Part.round
  dsimp only
  rw [steps, none, takes, Part.makeDeferred_rest copy, Part.makeDeferred_rest copy, Part.reclassify_rest (stalls .a),
    Part.reclassify_rest (stalls .b)]

/-- The touch copier and its queue change, and no more is left to do: at rest as before. -/
theorem Part.atRest_touch {p q : Part} (rest : p.atRest = true) (ports : q.ports = p.ports)
    (records : q.records = p.records) (channels : q.copy.channels = p.copy.channels)
    (waiting : q.copy.waiting = p.copy.waiting)
    (marks : ∀ w l, lineIn (p.inCopyLines w) l = true → lineIn (q.inCopyLines w) l = true)
    (touch : q.copy.touch.work ≠ .idle ∨
      ∀ e ∈ q.copy.queue, e.inService = false → lineIn (q.inCopyLines e.window) e.line = true)
    (deferred : q.copy.deferred = ⟨none, none⟩)
    (serves : ∀ x v l, p.touchServes x v l = true → q.touchServes x v l = true) : q.atRest = true := by
  obtain ⟨holds, jobs, queues⟩ := Part.atRest_iff_queues.mp rest
  have channel : q.channel = p.channel := funext fun c => by simp only [Part.channel, channels]
  have free : q.freeChannel? = p.freeChannel? := by
    unfold Part.freeChannel?
    rw [channel]
  have service : ∀ v, q.service v = p.service v := fun v => Part.service_of_records records v
  refine Part.atRest_iff_queues.mpr ⟨fun c => ?_, by rw [free, waiting]; exact jobs, touch, fun r => ?_, fun r => ?_⟩
  · refine Part.channelHolds_iff.mpr fun v job serving => ?_
    rw [channel] at serving ⊢
    obtain ⟨unmasked, within⟩ := Part.channelHolds_iff.mp (holds c) v job serving
    exact ⟨unmasked, fun sv hs l hl => marks v l (within sv (by rw [← service]; exact hs) l hl)⟩
  · simp only [Part.deferredHolds, deferred]
    cases r <;> rfl
  · refine Part.stallHolds_iff.mpr fun a st n ha hp => ?_
    have acc : q.accessOf r = p.accessOf r := by simp only [Part.accessOf, ports]
    have old := Part.stallHolds_iff.mp (queues.stalls r) a st n (acc ▸ ha) hp
    cases st with
    | touchWait v l =>
      simp only [Part.stallEnded, service] at old ⊢
      cases hs : p.service v with
      | none => simp [hs] at old
      | some sv =>
        cases ret : sv.retiring with
        | true =>
          simp only [hs, ret, if_true, Bool.not_eq_false'] at old ⊢
          exact serves r v l old
        | false => simpa [hs, ret] using old
    | _ => simpa only [Part.stallEnded, service] using old

/-- The touch copier without a mark and with an empty queue is idle: at rest. -/
theorem Part.inCopyLines_touchIdle {p : Part} (unmarked : ∀ v, p.copy.touch.work.mark v = noLines) (holding : Word)
    (v : Win) : (p.withTouch ⟨.idle, holding⟩).inCopyLines v = p.inCopyLines v :=
  Part.inCopyLines_of_work (fun _ => rfl) (unmarked v).symm

theorem Part.channelHolds_touchIdle {p : Part} (unmarked : ∀ v, p.copy.touch.work.mark v = noLines) (holding : Word)
    {c : Chan} (h : p.channelHolds c = true) : (p.withTouch ⟨.idle, holding⟩).channelHolds c = true := by
  refine Part.channelHolds_iff.mpr fun w job serves => ?_
  obtain ⟨unmasked, within⟩ := Part.channelHolds_iff.mp h w job serves
  refine ⟨unmasked, fun sv hs l hl => ?_⟩
  rw [Part.inCopyLines_touchIdle unmarked]
  exact within sv hs l hl

/-- A drained touch copier takes the oldest queued entry that can be copied (R87, R95). -/
theorem Part.finishAccess_touchTakes {p : Part} {m : MemAccess} {word : Word} {w : Win} {cp : LineCopy}
    {before after : List TouchEntry} {e : TouchEntry} {sv : Service} (soft : p.softReset = .none)
    (atRest : p.atRest = true) (noDeferred : p.copy.deferred = ⟨none, none⟩)
    (work : p.copy.touch.work = .draining w cp) (queue : p.copy.queue = before ++ e :: after)
    (waits : e.inService = false)
    (skipped : ∀ x ∈ before, x.inService = false → lineIn (p.inCopyLines x.window) x.line = true)
    (fresh : lineIn (p.inCopyLines e.window) e.line = false) (others : ∀ x ∈ before ++ after, x.port ≠ e.port)
    (hs : p.service e.window = some sv)
    (delivered : p.deliver m word = p.withTouch ⟨.idle, p.copy.touch.holding⟩) :
    p.finishAccess m word =
      { (((p.withTouch ⟨.idle, p.copy.touch.holding⟩).setQueue
          (before ++ { e with inService := true } :: after)).setTouchWork
          (.copying e.window (sv.startLine sv.latest sv.back e.line))) with
        arbiter := { p.arbiter with
          access := some (copierAccess .touch (sv.startLine sv.latest sv.back e.line) p.copy.touch.holding
            p.arbiter.accessTime) } } := by
  have unmarked : ∀ v, p.copy.touch.work.mark v = noLines := fun v => by rw [work]; rfl
  have sameMarks := Part.inCopyLines_touchIdle unmarked p.copy.touch.holding
  obtain ⟨holds, jobs, -⟩ := Part.atRest_iff_queues.mp atRest
  have takes := Part.touchTake_first (p := p.withTouch ⟨.idle, p.copy.touch.holding⟩) (before := before) (after := after)
    (e := e) (sv := sv) rfl queue (fun x hx hi => by rw [sameMarks]; exact skipped x hx hi) waits
    (by rw [sameMarks]; exact fresh) others hs
  have rest : (((p.withTouch ⟨.idle, p.copy.touch.holding⟩).setQueue
      (before ++ { e with inService := true } :: after)).setTouchWork
      (.copying e.window (sv.startLine sv.latest sv.back e.line))).atRest = true := by
    refine Part.atRest_touch atRest rfl rfl rfl rfl (fun v l marked => ?_)
      (.inl (show TouchWork.copying e.window (sv.startLine sv.latest sv.back e.line) ≠ .idle from nofun)) noDeferred
      (fun x v l served => ?_)
    · rw [Part.lineIn_inCopyLines] at marked ⊢
      refine .inl (marked.resolve_right fun h => ?_)
      rw [unmarked, lineIn_noLines] at h
      cases h
    · simp only [Part.touchServes, queue, List.any_append, List.any_cons, waits, Bool.false_and, Bool.false_or,
        Bool.or_eq_true] at served
      change (before ++ { e with inService := true } :: after).any _ = true
      simp only [List.any_append, List.any_cons, Bool.or_eq_true]
      exact served.imp id .inr
  have round := Part.round_touch (p := p.withTouch ⟨.idle, p.copy.touch.holding⟩)
    (fun d => Part.channelHolds_touchIdle unmarked _ (holds d)) jobs takes rest
  unfold Part.finishAccess
  rw [delivered, round, Part.round_rest rest]
  exact Part.offer_touch rfl (show p.softReset ≠ .draining by simp [soft]) rfl

/-! ## The obligation -/

theorem copierAccess_start_touch (sv : Service) (line : Nat) (holding : Word) (time : Nat) :
    copierAccess .touch (sv.startLine sv.latest sv.back line) holding time =
      .ofTouch false (sv.geometry.base sv.latest + BitVec.ofNat 20 (16 * line)) 0#16 time := rfl

/-- Settles O27: the copier is idle, and takes what waits. -/
theorem drainEnds : Obligations.DrainEnds := by
  unfold Obligations.DrainEnds
  intro w cp m s access kind write last soft rest wf noDeferred
  have busy : s.part.arbiter.access.isSome = true := by rw [access]; rfl
  refine ⟨s.accessMem m, State.accessMem_afterWrite wf write, ?_⟩
  intro result freed
  refine ⟨fun c hc => ?_, fun ht => ?_⟩
  · obtain ⟨own, work, only⟩ := hc
    intro p
    have unmarked : ∀ v, (s.part.channel c).work.mark v = noLines := fun v => by rw [work]; rfl
    have delivered : s.part.deliver m (s.accessWord m) = s.part.setChannelWork c .idle := by
      rw [Part.deliver_channelEnd own (by rw [work]; rfl) write last, Part.channelLineEnd_draining work]
    obtain ⟨holds, jobs, queues⟩ := Part.atRest_iff_queues.mp rest
    refine ⟨fun none => ?_, fun e l sv line he => ?_⟩
    · have rest' : (s.part.setChannelWork c .idle).atRest = true := by
        refine Part.atRest_iff_queues.mpr ⟨fun d => Part.channelHolds_setIdle unmarked fun _ => holds d, ?_,
          queues.setIdle unmarked⟩
        rcases none with masked | empty
        · refine jobs.imp (fun noneFree => Part.freeChannel?_none_iff.mpr fun d idle => ?_) id
          rw [s.part.masked_setChannelWork]
          by_cases same : d = c
          · rw [same]
            exact masked
          · rw [s.part.work_setChannelWork, if_neg same] at idle
            exact Part.freeChannel?_none_iff.mp noneFree d idle
        · exact .inr empty
      have done := Part.finishAccess_of_rest delivered rest'
      rw [Part.offer_channelIdle only] at done
      rw [exec_completion access (.inl kind) soft, done]
      rfl
    · obtain ⟨unmasked, waiting, waitingOk, hs, lowest⟩ := he
      have target : sv.stale.get (sv.jobTarget e.job) =
          sv.stale.get (match e.job with | .catchUp => sv.back | .retire => .b0) := by
        cases e.job <;> rfl
      have done := Part.finishAccess_drainedTakes busy soft rest only work unmasked waiting
        (Part.waitingOk_iff.mp waitingOk) hs (by rw [target]; exact lowest) delivered
      rw [exec_completion access (.inl kind) soft, done]
      rfl
  · obtain ⟨own, work⟩ := ht
    intro p
    have unmarked : ∀ v, s.part.copy.touch.work.mark v = noLines := fun v => by rw [work]; rfl
    have delivered : s.part.deliver m (s.accessWord m) = p := by
      rw [Part.deliver_touchEnd own (by rw [work]; rfl) write last, Part.touchLineEnd_draining work]
    refine ⟨fun hq => ?_, fun before e after sv he => ?_⟩
    · obtain ⟨⟨channels, ports⟩, empty⟩ := hq
      have rest' : p.atRest = true := by
        refine Part.atRest_touch rest rfl rfl rfl rfl (fun v l marked => ?_) (.inr fun e he => ?_) noDeferred
          (fun _ _ _ => id)
        · rw [Part.inCopyLines_touchIdle unmarked]
          exact marked
        · have he : e ∈ s.part.copy.queue := he
          rw [empty] at he
          cases he
      rw [exec_completion access (.inl kind) soft, Part.finishAccess_of_rest delivered rest',
        Part.offer_noRequest (p := p.portFree) rfl channels (ports .a) (ports .b)]
      rfl
    · obtain ⟨queue, waits, skipped, fresh, others, hs⟩ := he
      intro next taken
      have done := Part.finishAccess_touchTakes soft rest noDeferred work queue waits
        (fun x hx _ => (skipped x hx).2) fresh others hs delivered
      rw [exec_completion access (.inl kind) soft, done, copierAccess_start_touch]
      rfl

end Sys2Proof.Machine
end

section
/-!
What the work inside an event keeps: the interface of a port that does not go on, the memory port, every pending notice of
such a port, and a window in service behind STOPPING (R28, R29, R151, R160).
-/

namespace Sys2Proof.Machine

/-- The part is in STANDBY, or in STOPPING with a window in service (R159, R160). -/
def Part.InUse (p : Part) : Prop :=
  p.opState = .standby ∨ (p.opState = .stopping ∧ ∃ w, (p.service w).isSome = true)

theorem Part.InUse.congr {p q : Part} (h : p.InUse) (opState : q.opState = p.opState)
    (service : ∀ w, (p.service w).isSome = true → (q.service w).isSome = true) : q.InUse := by
  rw [Part.InUse, opState]
  exact h.imp id fun ⟨stopping, w, hw⟩ => ⟨stopping, w, service w hw⟩

/-- Work that no port's access takes part in. -/
structure Part.Keeps (p q : Part) : Prop where
  ports : q.ports = p.ports
  arbiter : q.arbiter = p.arbiter
  notices : ∀ x w k, p.pending x w k → q.pending x w k
  use : p.InUse → q.InUse

section
variable {p q r : Part}

theorem Part.Keeps.refl (p : Part) : Part.Keeps p p := ⟨rfl, rfl, fun _ _ _ => id, id⟩

theorem Part.Keeps.trans (h : Part.Keeps p q) (k : Part.Keeps q r) : Part.Keeps p r :=
  ⟨k.ports.trans h.ports, k.arbiter.trans h.arbiter, fun x w n => k.notices x w n ∘ h.notices x w n, k.use ∘ h.use⟩

theorem Part.pending_congr {p q : Part} (notices : q.notices = p.notices) {x : Port} {w : Win} {k : Notice}
    (h : p.pending x w k) : q.pending x w k := by
  rw [Part.pending, notices]
  exact h

/-- Work on the Copy Engine alone. -/
theorem Part.Keeps.of_copy (ports : q.ports = p.ports) (arbiter : q.arbiter = p.arbiter)
    (notices : q.notices = p.notices) (records : q.records = p.records) (opState : q.opState = p.opState) :
    Part.Keeps p q :=
  ⟨ports, arbiter, fun _ _ _ => Part.pending_congr notices, fun h => h.congr opState fun w hw => by
    rw [Part.service_of_records records]
    exact hw⟩

end

section
variable (p : Part)

theorem Part.keeps_note (x : Port) (w : Win) (k : Notice) : Part.Keeps p (p.note x w k) :=
  ⟨rfl, rfl, fun _ _ _ h => Part.pending_note h x w k, fun h => h.congr rfl fun _ => id⟩

theorem Part.keeps_setRecord (w : Win) {r : Record} (h : r.service.isSome = true) : Part.Keeps p (p.setRecord w r) :=
  ⟨rfl, rfl, fun _ _ _ => id, fun use => use.congr rfl fun v hv => by
    by_cases same : v = w
    · subst same
      rw [Part.service_setRecord_same]
      exact h
    · rw [Part.service_setRecord_ne p same]
      exact hv⟩

theorem Part.keeps_setService (w : Win) (sv : Service) : Part.Keeps p (p.setService w sv) := p.keeps_setRecord w rfl

theorem Part.keeps_join (w : Win) (job : Job) : Part.Keeps p (p.join w job) := by
  unfold Part.join
  split <;> exact .of_copy rfl rfl rfl rfl rfl

theorem Part.keeps_flip (w : Win) (late : Bool) : Part.Keeps p (p.flip w late) := by
  unfold Part.flip
  repeat' split
  · exact .refl p
  · exact .refl p
  · exact (p.keeps_setRecord w rfl).trans (Part.keeps_note _ _ _ _)

theorem Part.keeps_unpin (w : Win) : Part.Keeps p (p.unpin w) := by
  have ends : Part.Keeps p (p.endPin w) := by
    unfold Part.endPin
    split
    exacts [.refl p, p.keeps_setService w _]
  unfold Part.unpin
  repeat' split
  · exact .refl p
  · exact ends.trans (Part.keeps_flip _ w true)
  · exact .refl p

theorem Part.keeps_pinBySeq (w : Win) : Part.Keeps p (p.pinBySeq w) := by
  unfold Part.pinBySeq
  repeat' split
  · exact .refl p
  · exact p.keeps_setService w _
  · exact .refl p

theorem Part.keeps_release (w : Win) : Part.Keeps p (p.release w) := by
  unfold Part.release
  split
  · exact .refl p
  · rename_i sv _
    have noted : Part.Keeps p (if sv.ready.isSome then p.note sv.consumer w .dropped else p) := by
      split
      exacts [p.keeps_note _ w _, .refl p]
    have recorded := noted.trans (Part.keeps_setRecord _ w (r := (p.record w).released sv) rfl)
    dsimp only
    split
    · exact recorded.trans (Part.keeps_note _ _ _ _)
    · exact recorded.trans (Part.keeps_join _ w _)

theorem Part.keeps_promote (w : Win) : Part.Keeps p (p.promote w) := by
  unfold Part.promote
  repeat' split
  all_goals exact .of_copy rfl rfl rfl rfl rfl

theorem Part.keeps_explicitRelease (w : Win) : Part.Keeps p (p.explicitRelease w) := by
  unfold Part.explicitRelease
  repeat' split
  · exact .refl p
  · exact p.keeps_release w
  · exact (p.keeps_setService w _).trans (Part.keeps_promote _ w)

theorem Part.keeps_abandon (w : Win) : Part.Keeps p (p.abandon w) := by
  unfold Part.abandon
  split
  · exact .refl p
  · dsimp only
    split
    · exact p.keeps_setService w _
    · exact (p.keeps_setService w _).trans (Part.keeps_join _ w _)

/-! ## Jobs -/

theorem Part.keeps_endJob (w : Win) : Part.Keeps p (p.endJob w) := .of_copy rfl rfl rfl rfl rfl

theorem Part.keeps_completeCatchUp (w : Win) : Part.Keeps p (p.completeCatchUp w) := by
  unfold Part.completeCatchUp
  dsimp only
  split
  · exact p.keeps_endJob w
  · rename_i sv _
    have noted := (p.keeps_endJob w).trans (Part.keeps_note _ sv.geometry.producer w .backReady)
    split
    · exact noted.trans (Part.keeps_release _ w)
    · exact noted

theorem Part.inUse_checkStandby (h : p.opState = .standby ∨ p.opState = .stopping) : p.checkStandby.InUse := by
  unfold Part.checkStandby
  split
  · exact .inl rfl
  · rename_i notAll
    refine h.imp id fun stopping => ⟨stopping, ?_⟩
    have some : ¬ p.allOff = true := fun all => notAll ⟨stopping, all⟩
    simp only [Part.allOff, List.all_eq_true, not_forall] at some
    obtain ⟨w, -, hw⟩ := some
    exact ⟨w, by simpa [Option.isSome_iff_ne_none] using hw⟩

theorem NoticeUnit.window_recordGlobal (n : NoticeUnit) (k : GlobalNotice) : (n.recordGlobal k).window = n.window := by
  unfold NoticeUnit.recordGlobal
  split <;> rfl

theorem Part.pending_checkStandby {x : Port} {w : Win} {k : Notice} (h : p.pending x w k) :
    p.checkStandby.pending x w k := by
  unfold Part.checkStandby
  split
  · rw [Part.pending] at h ⊢
    cases x <;> simpa only [Part.noteGlobal, PerPort.get, NoticeUnit.window_recordGlobal] using h
  · exact h

theorem Part.keeps_completeRetire (w : Win) : Part.Keeps p (p.completeRetire w) := by
  have fields : ∀ q : Part, q.checkStandby.ports = q.ports ∧ q.checkStandby.arbiter = q.arbiter := fun q => by
    unfold Part.checkStandby
    split <;> exact ⟨rfl, rfl⟩
  refine ⟨(fields _).1, (fields _).2, fun x v k h => Part.pending_checkStandby _ ?_, fun h => Part.inUse_checkStandby _ ?_⟩
  · exact Part.pending_noteBoth (p := (p.endJob w).dropService w) h w .retired
  · exact h.imp id And.left

theorem Part.keeps_testJob (w : Win) : Part.Keeps p (p.testJob w) := by
  unfold Part.testJob
  repeat' split
  · exact p.keeps_completeCatchUp w
  · exact p.keeps_completeRetire w
  · exact .refl p
  · exact .refl p

theorem Part.keeps_selectLine (c : Chan) : Part.Keeps p (p.selectLine c) := by
  unfold Part.selectLine
  repeat' split
  all_goals exact .of_copy rfl rfl rfl rfl rfl

theorem Part.keeps_channelStep (c : Chan) : Part.Keeps p (p.channelStep c) := by
  unfold Part.channelStep
  repeat' split
  · exact .of_copy rfl rfl rfl rfl rfl
  · exact p.keeps_selectLine c
  · exact .refl p

theorem Part.keeps_stepChannels : Part.Keeps p p.stepChannels :=
  (((p.keeps_channelStep 3).trans (Part.keeps_channelStep _ 2)).trans (Part.keeps_channelStep _ 1)).trans
    (Part.keeps_channelStep _ 0)

theorem Part.keeps_takeHead (c : Chan) (e : WaitEntry) (rest : List WaitEntry) : Part.Keeps p (p.takeHead c e rest) := by
  have taken : Part.Keeps p ((p.setWaiting rest).setChannelWork c (.serving e.window e.job none)) :=
    .of_copy rfl rfl rfl rfl rfl
  unfold Part.takeHead
  dsimp only
  split
  · exact taken.trans (Part.keeps_testJob _ _)
  · exact taken.trans (Part.keeps_selectLine _ _)

/-! ## The touch copier -/

theorem Part.keeps_touchTake : Part.Keeps p p.touchTake := by
  unfold Part.touchTake
  repeat' split
  all_goals exact .of_copy rfl rfl rfl rfl rfl

theorem Part.keeps_touchRequest (x : Port) (w : Win) (line : Nat) : Part.Keeps p (p.touchRequest x w line) := by
  unfold Part.touchRequest
  split
  · exact .of_copy rfl rfl rfl rfl rfl
  · have queued : Part.Keeps p (p.setQueue (p.copy.queue ++ [⟨x, w, line, false, false⟩])) := .of_copy rfl rfl rfl rfl rfl
    exact queued.trans (Part.keeps_touchTake _)

theorem Part.keeps_makeDeferred (x : Port) : Part.Keeps p (p.makeDeferred x) := by
  have dropped : Part.Keeps p { p with copy := { p.copy with deferred := p.copy.deferred.set x none } } :=
    .of_copy rfl rfl rfl rfl rfl
  unfold Part.makeDeferred
  repeat' split
  · exact .refl p
  · exact .refl p
  · exact dropped.trans (Part.keeps_touchRequest _ _ _ _)
  · exact dropped

end

/-! ## A port's access that goes on -/

/-- Work that the access of the port `x` alone takes part in. -/
structure Part.KeepsBut (x : Port) (p q : Part) : Prop where
  ports : ∀ y, y ≠ x → q.ports.get y = p.ports.get y
  arbiter : q.arbiter = p.arbiter
  notices : ∀ y, y ≠ x → ∀ w k, p.pending y w k → q.pending y w k
  use : p.InUse → q.InUse

section
variable {p q r : Part} {x : Port}

theorem Part.KeepsBut.trans (h : Part.KeepsBut x p q) (k : Part.KeepsBut x q r) : Part.KeepsBut x p r :=
  ⟨fun y hy => (k.ports y hy).trans (h.ports y hy), k.arbiter.trans h.arbiter,
    fun y hy w n => k.notices y hy w n ∘ h.notices y hy w n, k.use ∘ h.use⟩

theorem Part.Keeps.but (h : Part.Keeps p q) (x : Port) : Part.KeepsBut x p q :=
  ⟨fun y _ => by rw [h.ports], h.arbiter, fun y _ => h.notices y, h.use⟩

theorem Part.KeepsBut.refl (p : Part) (x : Port) : Part.KeepsBut x p p := (Part.Keeps.refl p).but x

/-- Another interface at the port. -/
theorem Part.keepsBut_withPort (p : Part) (x : Port) (i : PortIf) : Part.KeepsBut x p (p.withPort x i) :=
  ⟨fun _ hy => PerPort.get_set_ne _ hy i, rfl, fun _ _ _ _ => id, fun h => h.congr rfl fun _ => id⟩

theorem Part.keepsBut_setAccess (p : Part) (x : Port) (a : Access) : Part.KeepsBut x p (p.setAccess x a) :=
  p.keepsBut_withPort x _

theorem Part.keepsBut_completeAccess (p : Part) (x : Port) (d : Option Word) :
    Part.KeepsBut x p (p.completeAccess x d) := p.keepsBut_withPort x _

theorem Part.keepsBut_clearNotices (p : Part) (x : Port) (w : Win) : Part.KeepsBut x p (p.clearNotices x w) := by
  refine ⟨fun _ _ => rfl, rfl, fun y hy v k h => ?_, fun h => h.congr rfl fun _ => id⟩
  have same : (p.clearNotices x w).notices.get y = p.notices.get y := PerPort.get_set_ne _ hy _
  rw [Part.pending, same]
  exact h

theorem Part.keepsBut_tagRead (p : Part) (x : Port) (w : Win) (word : TagWord) : Part.KeepsBut x p (p.tagRead x w word) := by
  unfold Part.tagRead
  split
  · exact .refl p x
  · rename_i sv _
    have effect : Part.KeepsBut x p (p.tagReadEffect x w sv word) := by
      unfold Part.tagReadEffect
      split
      · split
        exacts [(p.keeps_pinBySeq w).but x, .refl p x]
      · exact p.keepsBut_clearNotices x w
      · exact .refl p x
      · exact .refl p x
    exact effect.trans (Part.keepsBut_completeAccess _ x _)

theorem Part.keeps_controlWrite (p : Part) (x : Port) (w : Win) (sv : Service) (l : Lanes) (d : Word) :
    Part.Keeps p (p.controlWrite x w sv l d) := by
  unfold Part.controlWrite
  repeat' split
  · exact p.keeps_note x w _
  · exact p.keeps_explicitRelease w
  · exact p.keeps_abandon w
  · exact p.keeps_note x w _
  · exact p.keeps_unpin w
  · exact p.keeps_note x w _

theorem Part.keepsBut_tagWrite (p : Part) (x : Port) (w : Win) (word : TagWord) (l : Lanes) (d : Word) :
    Part.KeepsBut x p (p.tagWrite x w word l d) := by
  unfold Part.tagWrite
  split
  · exact .refl p x
  · have done := p.keepsBut_completeAccess x none
    dsimp only
    split
    · exact done.trans ((Part.keeps_controlWrite _ _ _ _ _ _).but x)
    · exact done.trans ((Part.keeps_note _ _ _ _).but x)

theorem Part.keepsBut_proceed (p : Part) (x : Port) (a : Access) (c : AccessClass) :
    Part.KeepsBut x p (p.proceed x a c) := by
  unfold Part.proceed
  split
  · exact p.keepsBut_setAccess x _
  · exact (p.keepsBut_setAccess x _).trans ((Part.keeps_touchRequest _ _ _ _).but x)
  · exact p.keepsBut_setAccess x _
  · split
    exacts [p.keepsBut_tagWrite x _ _ _ _, p.keepsBut_tagRead x _ _]
  · exact (p.keepsBut_completeAccess x none).trans ((Part.keeps_note _ _ _ _).but x)
  · exact (p.keepsBut_completeAccess x none).trans ((Part.keeps_note _ _ _ _).but x)

theorem Part.keepsBut_reclassify (p : Part) (x : Port) : Part.KeepsBut x p (p.reclassify x) := by
  unfold Part.reclassify
  repeat' split
  · exact .refl p x
  · exact p.keepsBut_proceed x _ _
  · exact .refl p x
  · exact .refl p x

end

end Sys2Proof.Machine
end

section
/-!
The order of choice (08_memory_port_and_arbitration.md R140 to R142), one equation for each row, and the withdrawal of a
request that no longer needs memory.
-/

namespace Sys2Proof.Machine

/-! ## The rotation -/

/-- The rotation from a channel, cut at another: those before it are nearer to the start. -/
theorem rotationFrom_split : ∀ n c : Chan,
    rotationFrom n = (rotationFrom n).take (c - n).val ++ c :: (rotationFrom n).drop ((c - n).val + 1) ∧
      ∀ d ∈ (rotationFrom n).take (c - n).val, (d - n).val < (c - n).val := by decide

/-- The requesting channel that the rotation reaches first is chosen (R140). -/
theorem Part.rotated_first {p : Part} {c : Chan} (own : p.channelRequests c = true)
    (first : ∀ d : Chan, p.channelRequests d = true → (c - p.arbiter.nextChannel).val ≤ (d - p.arbiter.nextChannel).val) :
    p.rotated? = some c := by
  obtain ⟨cut, nearer⟩ := rotationFrom_split p.arbiter.nextChannel c
  have skipped : ((rotationFrom p.arbiter.nextChannel).take (c - p.arbiter.nextChannel).val).find?
      (fun d => p.channelRequests d) = none := by
    refine List.find?_eq_none.mpr fun d hd requests => ?_
    have := first d requests
    have := nearer d hd
    omega
  unfold Part.rotated?
  rw [cut, List.find?_append, skipped]
  simp [own]

/-! ## The choice, row by row -/

section
variable {p : Part} {n : Nat}

theorem Part.choose_touch (touch : p.touchRequests = true) : p.choose (n + 1) = (p.grantTouch, []) := by
  unfold Part.choose
  rw [if_pos touch]

theorem Part.choose_channel {c : Chan} (touch : p.touchRequests = false) (rotated : p.rotated? = some c)
    (turn : p.arbiter.runLimit ≤ p.arbiter.portRun ∨ p.selectedPort? = none) :
    p.choose (n + 1) = (p.grantChannel c, []) := by
  unfold Part.choose
  rw [touch, rotated]
  by_cases limit : p.arbiter.runLimit ≤ p.arbiter.portRun
  · simp [limit]
  · simp [limit, turn.resolve_left limit]

theorem Part.choose_nobody (touch : p.touchRequests = false) (rotated : p.rotated? = none)
    (selected : p.selectedPort? = none) : p.choose (n + 1) = (p, []) := by
  unfold Part.choose
  simp [touch, rotated, selected]

variable {q : Port} {a : Access}

theorem Part.choose_port {m : MemClass} (touch : p.touchRequests = false)
    (turn : p.rotated? = none ∨ p.arbiter.portRun < p.arbiter.runLimit) (selected : p.selectedPort? = some q)
    (acc : p.accessOf q = some a) (cls : p.classify q a.addr a.write = .memory m) :
    p.choose (n + 1) = (p.grantPort q a m, []) := by
  unfold Part.choose
  rcases turn with none | below
  · simp [touch, none, selected, acc, cls]
  · have limit : ¬ p.arbiter.runLimit ≤ p.arbiter.portRun := by omega
    simp [touch, limit, selected, acc, cls]

/-- A selected port whose class needs no memory is withdrawn, and the choice goes on (R142). -/
theorem Part.choose_withdraws (touch : p.touchRequests = false)
    (turn : p.rotated? = none ∨ p.arbiter.portRun < p.arbiter.runLimit) (selected : p.selectedPort? = some q)
    (acc : p.accessOf q = some a) (cls : ∀ m, p.classify q a.addr a.write ≠ .memory m) :
    p.choose (n + 1) = (((p.withdraw q a).choose n).1,
      (q, a, p.classify q a.addr a.write) :: ((p.withdraw q a).choose n).2) := by
  conv_lhs => unfold Part.choose
  generalize hc : p.classify q a.addr a.write = k at cls
  rcases turn with none | below
  · simp only [touch, none, selected, acc, hc]
    cases k with
    | memory m => exact absurd rfl (cls m)
    | _ => rfl
  · have limit : ¬ p.arbiter.runLimit ≤ p.arbiter.portRun := by omega
    simp only [touch, limit, selected, acc, hc, decide_false]
    cases k with
    | memory m => exact absurd rfl (cls m)
    | _ => cases p.rotated? <;> rfl

/-- The port of rows 3 and 4: the one that requests, or of both the one not granted last. -/
theorem Part.selectedPort?_eq (own : p.portRequests q = true)
    (other : p.portRequests q.other = true → p.arbiter.lastPort = q.other) : p.selectedPort? = some q := by
  unfold Part.selectedPort?
  cases hq : p.portRequests q.other with
  | false => cases q <;> simp only [Port.other] at hq <;> simp [own, hq]
  | true =>
    have last := other hq
    cases q <;> simp only [Port.other] at hq last <;> simp [own, hq, last, Port.other]

theorem Part.selectedPort?_none (a : p.portRequests .a = false) (b : p.portRequests .b = false) :
    p.selectedPort? = none := by
  simp [Part.selectedPort?, a, b]

/-- A choice that withdraws nothing is the offer. -/
theorem Part.offerIn_chosen {r : Part} (free : p.arbiter.access = none) (soft : p.softReset ≠ .draining)
    (chosen : p.choose 3 = (r, [])) : Part.offerIn (n + 1) p = r := by
  unfold Part.offerIn
  rw [if_pos ⟨free, soft⟩, chosen]
  rfl

theorem Part.offerIn_busy (busy : p.arbiter.access.isSome = true) : Part.offerIn (n + 1) p = p := by
  unfold Part.offerIn
  rw [if_neg]
  rintro ⟨free, -⟩
  rw [free] at busy
  cases busy

theorem Part.offerIn_withdrew {r : Part} {x : Port × Access × AccessClass} {l : List (Port × Access × AccessClass)}
    (free : p.arbiter.access = none) (soft : p.softReset ≠ .draining) (chosen : p.choose 3 = (r, x :: l)) :
    Part.offerIn (n + 1) p = Part.offerIn n (r.goOn (x :: l)).round.round := by
  conv_lhs => unfold Part.offerIn
  rw [if_pos ⟨free, soft⟩, chosen]
  rfl

end

/-! ## What a withdrawal leaves -/

section
variable {p : Part} {q : Port} {a : Access}

theorem Part.withdraw_eq (p : Part) (q : Port) (a : Access) :
    p.withdraw q a = p.withPort q { p.ports.get q with access := some { a with phase := .unclassified } } := rfl

theorem Part.withdraw_own (p : Part) (q : Port) (a : Access) : (p.withdraw q a).portRequests q = false := by
  have acc : (p.withdraw q a).accessOf q = some { a with phase := .unclassified } := by cases q <;> rfl
  rw [Part.portRequests, acc]

theorem Part.withdraw_accessOf_other (p : Part) (q : Port) (a : Access) :
    (p.withdraw q a).accessOf q.other = p.accessOf q.other := by
  cases q <;> rfl

theorem Part.withdraw_portRequests_other (p : Part) (q : Port) (a : Access) :
    (p.withdraw q a).portRequests q.other = p.portRequests q.other := by
  rw [Part.portRequests, Part.withdraw_accessOf_other]
  rfl

theorem Part.grantPort_arbiter (p : Part) (q : Port) (a : Access) (m : MemClass) : (p.grantPort q a m).arbiter =
    { p.arbiter with
      access := some (p.portAccess q a m), lastPort := q
      portRun := if p.arbiter.portRun < 15 then p.arbiter.portRun + 1 else 15 } := by
  have effect : (p.grantEffect q a m).arbiter = p.arbiter := by
    unfold Part.grantEffect
    repeat' split
    all_goals rfl
  unfold Part.grantPort
  dsimp only
  rw [Part.setAccess_arbiter, effect]

theorem Part.grantPort_get_same (p : Part) (q : Port) (a : Access) (m : MemClass) :
    (p.grantPort q a m).accessOf q = some { a with phase := .granted m } := by
  cases q <;> rfl

theorem Part.withdraw_portAccess (p : Part) (q x : Port) (a b : Access) (m : MemClass) :
    (p.withdraw q a).portAccess x b m = p.portAccess x b m := rfl

theorem Part.withdraw_grantPort_arbiter (p : Part) (q x : Port) (a b : Access) (m : MemClass) :
    ((p.withdraw q a).grantPort x b m).arbiter = (p.grantPort x b m).arbiter := by
  rw [Part.grantPort_arbiter, Part.grantPort_arbiter, Part.withdraw_portAccess]
  rfl

theorem Part.withdraw_grantChannel (p : Part) (q : Port) (a : Access) (c : Chan) :
    (p.withdraw q a).grantChannel c = (p.grantChannel c).withdraw q a := by
  have copy : ((p.withdraw q a).channel c).work.lineCopy? = (p.channel c).work.lineCopy? := rfl
  unfold Part.grantChannel
  rw [copy]
  split <;> rfl

end

/-! ## Rounds beside a granted access -/

section
variable {p : Part}

theorem Part.takeJobs_ports (n : Nat) : ∀ p : Part, (Part.takeJobs n p).ports = p.ports := by
  induction n with
  | zero => exact fun _ => rfl
  | succ k ih =>
    intro p
    unfold Part.takeJobs
    split
    · rename_i c e rest _ _
      rw [ih]
      have taken := (p.keeps_takeHead c e rest).ports
      unfold Part.chooseAtOnce
      split
      · exact taken
      · exact (Part.grantChannel_keeps _ c).2.2.1.trans taken
    · rfl

theorem Part.takeJobs_arbiter (n : Nat) : ∀ p : Part, p.arbiter.access.isSome = true →
    (Part.takeJobs n p).arbiter = p.arbiter := by
  induction n with
  | zero => exact fun _ _ => rfl
  | succ k ih =>
    intro p busy
    unfold Part.takeJobs
    split
    · rename_i c e rest _ _
      have contended : p.portContended = true := by simp [Part.portContended, busy]
      have taken := (p.keeps_takeHead c e rest).arbiter
      rw [contended, Part.chooseAtOnce, if_pos rfl, ih _ (by rw [taken]; exact busy), taken]
    · rfl

/-- What a round does before the held accesses are classified anew. -/
def Part.copyRound (p : Part) : Part :=
  ((Part.takeJobs takeFuel p.stepChannels).touchTake.makeDeferred .a).makeDeferred .b

theorem Part.round_eq (p : Part) : p.round = (p.copyRound.reclassify .a).reclassify .b := rfl

theorem Part.copyRound_ports (p : Part) : p.copyRound.ports = p.ports := by
  unfold Part.copyRound
  rw [(Part.keeps_makeDeferred _ .b).ports, (Part.keeps_makeDeferred _ .a).ports, (Part.keeps_touchTake _).ports,
    Part.takeJobs_ports, p.keeps_stepChannels.ports]

theorem Part.copyRound_arbiter (busy : p.arbiter.access.isSome = true) : p.copyRound.arbiter = p.arbiter := by
  have steps := p.keeps_stepChannels.arbiter
  unfold Part.copyRound
  rw [(Part.keeps_makeDeferred _ .b).arbiter, (Part.keeps_makeDeferred _ .a).arbiter, (Part.keeps_touchTake _).arbiter,
    Part.takeJobs_arbiter _ _ (by rw [steps]; exact busy), steps]

/-- A busy memory port stays as it is through a round. -/
theorem Part.round_arbiter (busy : p.arbiter.access.isSome = true) : p.round.arbiter = p.arbiter := by
  rw [Part.round_eq, (Part.keepsBut_reclassify _ .b).arbiter, (Part.keepsBut_reclassify _ .a).arbiter,
    Part.copyRound_arbiter busy]

theorem Part.reclassify_get {x y : Port}
    (h : ∀ a st n, p.accessOf x = some a → a.phase ≠ .stalled st n) : (p.reclassify y).ports.get x = p.ports.get x := by
  by_cases same : x = y
  · subst same
    unfold Part.reclassify
    split
    · rfl
    · rename_i a acc
      split
      · rename_i st k stalled
        exact absurd stalled (h a st k acc)
      · rfl
  · exact (p.keepsBut_reclassify y).ports x same

/-- A port whose access is not held stays as it is through a round. -/
theorem Part.round_get {x : Port} (h : ∀ a st n, p.accessOf x = some a → a.phase ≠ .stalled st n) :
    p.round.ports.get x = p.ports.get x := by
  have copied : p.copyRound.accessOf x = p.accessOf x := by simp only [Part.accessOf, Part.copyRound_ports]
  have h' : ∀ a st n, p.copyRound.accessOf x = some a → a.phase ≠ .stalled st n := fun a st n ha => h a st n (copied ▸ ha)
  have first := Part.reclassify_get (p := p.copyRound) (x := x) (y := .a) h'
  rw [Part.round_eq, Part.reclassify_get fun a st n ha => h' a st n ?_, first, Part.copyRound_ports]
  rw [Part.accessOf, first] at ha
  exact ha

theorem Part.goOn_single (p : Part) (q : Port) (a : Access) (c : AccessClass) : p.goOn [(q, a, c)] = p.proceed q a c := rfl

/-- A withdrawal with a grant behind it: the grant stands after the event. -/
theorem Part.offer_withdrew {q : Port} {a : Access} {r : Part} (free : p.arbiter.access = none)
    (soft : p.softReset ≠ .draining) (k : AccessClass) (chosen : p.choose 3 = (r, [(q, a, k)]))
    (granted : r.arbiter.access.isSome = true) :
    p.offer.arbiter = r.arbiter ∧
      ((∀ b st n, r.accessOf q.other = some b → b.phase ≠ .stalled st n) → p.offer.accessOf q.other = r.accessOf q.other) := by
  have proceeded := r.keepsBut_proceed q a k
  have busy : (r.proceed q a k).arbiter.access.isSome = true := by rw [proceeded.arbiter]; exact granted
  have first := Part.round_arbiter busy
  have second := Part.round_arbiter (p := (r.proceed q a k).round) (by rw [first]; exact busy)
  have offered : p.offer = (r.proceed q a k).round.round := by
    unfold Part.offer
    rw [Part.offerIn_withdrew free soft chosen, Part.goOn_single, Part.offerIn_busy]
    rw [second, first]
    exact busy
  refine ⟨by rw [offered, second, first, proceeded.arbiter], fun still => ?_⟩
  have other : (r.proceed q a k).accessOf q.other = r.accessOf q.other := by
    simp only [Part.accessOf, proceeded.ports q.other (Port.other_ne q)]
  have still1 : ∀ b st n, (r.proceed q a k).accessOf q.other = some b → b.phase ≠ .stalled st n := by
    rw [other]
    exact still
  have round1 := Part.round_get still1
  have round2 := Part.round_get (p := (r.proceed q a k).round) (x := q.other) (by
    rw [Part.accessOf, round1]
    exact still1)
  rw [offered, ← other]
  simp only [Part.accessOf]
  rw [round2, round1]

end

end Sys2Proof.Machine
end

section
/-!
The order of choice: the obligation (R140, R142).
-/

namespace Sys2Proof.Machine

/-! ## A held access at rest -/

/-- The window of a stall that an access is classified into is in service, and its condition holds (R28, R29). -/
theorem Part.stalls_of_classify {p : Part} {x : Port} {addr : Addr} {write : Bool} {st : Stall}
    (cls : p.classify x addr write = .stall st) :
    p.stallEnded x st = false ∧ ∃ sv, p.service st.window = some sv := by
  unfold Part.classify at cls
  split at cls
  · cases cls
  · split at cls
    · cases cls
    · rename_i w area _
      split at cls
      · cases cls
      · rename_i sv hs
        split at cls
        · unfold classifyLogical at cls
          dsimp only at cls
          split at cls
          · rename_i ret
            cases cls
            exact ⟨by simp [Part.stallEnded, hs, ret], sv, hs⟩
          · rename_i ret
            split at cls
            · rename_i pend
              cases cls
              simp only [Bool.and_eq_true] at pend
              exact ⟨by simp [Part.stallEnded, hs, pend.2], sv, hs⟩
            · split at cls
              · cases cls
              · split at cls
                · split at cls <;> cases cls
                · split at cls
                  · cases cls
                  · split at cls
                    · rename_i line
                      cases cls
                      exact ⟨by simp [Part.stallEnded, hs, ret, line], sv, hs⟩
                    · cases cls
        · split at cls <;> cases cls

/-- A touch request leaves nothing to begin: its entry is taken, queued behind its line, or deferred (R86, R87, R89). -/
theorem Part.atRest_touchRequest {p : Part} {q : Port} {w : Win} {sv : Service} (rest : p.atRest = true)
    (hs : p.service w = some sv) (line : Nat) : (p.touchRequest q w line).atRest = true := by
  obtain ⟨-, -, queues⟩ := Part.atRest_iff_queues.mp rest
  by_cases earlier : ∃ e ∈ p.copy.queue, e.port = q
  · rw [Part.touchRequest_defers earlier]
    refine Part.atRest_queue rest rfl rfl rfl rfl (fun _ _ => id) (fun _ => id) queues.touch id fun r => ?_
    by_cases own : r = q
    · subst own
      exact .inr earlier
    · exact .inl (PerPort.get_set_ne _ own _)
  · have first : ∀ e ∈ p.copy.queue, e.port ≠ q := fun e he hp => earlier ⟨e, he, hp⟩
    have queued : ∀ b, ∀ e ∈ p.copy.queue, e ∈ p.copy.queue ++ [⟨q, w, line, b, false⟩] := fun b e he =>
      List.mem_append_left _ he
    rw [Part.touchRequest_queues first]
    by_cases takes : p.copy.touch.work = .idle ∧ lineIn (p.inCopyLines w) line = false
    · obtain ⟨idle, fresh⟩ := takes
      have taken := Part.touchTake_first (p := p.setQueue (p.copy.queue ++ [⟨q, w, line, false, false⟩]))
        (before := p.copy.queue) (e := ⟨q, w, line, false, false⟩) (after := []) idle rfl
        (fun e he hi => (queues.touch.resolve_left fun h => h idle) e he hi) rfl fresh
        (by simpa only [List.append_nil] using first) hs
      rw [taken]
      refine Part.atRest_queue rest rfl rfl rfl rfl (fun v l h => ?_) (queued true)
        (.inl (show TouchWork.copying w (sv.startLine sv.latest sv.back line) ≠ .idle from nofun)) (fun h => ?_)
        (fun _ => .inl rfl)
      · rw [Part.lineIn_inCopyLines] at h ⊢
        refine .inl (h.resolve_right fun marked => ?_)
        rw [idle] at marked
        simp [TouchWork.mark, lineIn_noLines] at marked
      · simp [Part.touchDraining, idle] at h
    · have rest' : (p.setQueue (p.copy.queue ++ [⟨q, w, line, false, false⟩])).atRest = true := by
        refine Part.atRest_queue rest rfl rfl rfl rfl (fun _ _ => id) (queued false) ?_ id (fun _ => .inl rfl)
        by_cases idle : p.copy.touch.work = .idle
        · refine .inr fun e he hi => ?_
          rcases List.mem_append.mp he with old | new
          · exact (queues.touch.resolve_left fun h => h idle) e old hi
          · rw [List.mem_singleton.mp new]
            exact (Bool.not_eq_false _).mp fun fresh => takes ⟨idle, fresh⟩
        · exact .inl idle
      rw [Part.touchTake_rest (Part.atRest_iff.mp rest').1]
      exact rest'

section
variable {p : Part} {q : Port} {a : Access}

theorem Part.setAccess_withdraw (p : Part) (q : Port) (a b : Access) : (p.withdraw q a).setAccess q b = p.setAccess q b := by
  cases q <;> rfl

theorem Part.setAccess_grantChannel (p : Part) (q : Port) (b : Access) (c : Chan) :
    (p.grantChannel c).setAccess q b = (p.setAccess q b).grantChannel c := by
  have copy : ((p.setAccess q b).channel c).work.lineCopy? = (p.channel c).work.lineCopy? := rfl
  unfold Part.grantChannel
  rw [copy]
  split <;> rfl

theorem Part.accessOf_setAccess (p : Part) (q : Port) (b : Access) : (p.setAccess q b).accessOf q = some b := by
  cases q <;> rfl

theorem Part.setAccess_accessOf_other (p : Part) (q : Port) (b : Access) :
    (p.setAccess q b).accessOf q.other = p.accessOf q.other := by
  cases q <;> rfl

/-- An access held in the stall it is classified into stays held as the part settles. -/
theorem Part.atRest_held {st : Stall} (rest : p.atRest = true) (holds : p.stallEnded q st = false) :
    (p.setAccess q { a with phase := .stalled st 0 }).atRest = true := by
  refine Part.atRest_withPort (p := p) rest q fun b st' n hb hp => ?_
  cases hb
  cases hp
  exact holds

/-- A held access goes on as one that is held, with its touch request. -/
theorem Part.proceed_stall (r : Part) (st : Stall) : r.proceed q a (.stall st) =
    match st with
    | .touchWait w line => (r.setAccess q { a with phase := .stalled st 0 }).touchRequest q w line
    | _ => r.setAccess q { a with phase := .stalled st 0 } := by
  cases st <;> rfl

/-- What the choice does beside the withdrawn access of the one port that requests: a channel's grant, or nothing. -/
theorem Part.choose_beside (touch : p.touchRequests = false) (other : p.portRequests q.other = false) :
    (p.rotated? = none ∧ (p.withdraw q a).choose 2 = (p.withdraw q a, [])) ∨
      ∃ c, p.rotated? = some c ∧ (p.withdraw q a).choose 2 = ((p.withdraw q a).grantChannel c, []) := by
  have noPort : (p.withdraw q a).selectedPort? = none := by
    have own := p.withdraw_own q a
    have beside := (p.withdraw_portRequests_other q a).trans other
    cases q
    · exact Part.selectedPort?_none own beside
    · exact Part.selectedPort?_none beside own
  cases rotated : p.rotated? with
  | none => exact .inl ⟨rfl, Part.choose_nobody touch rotated noPort⟩
  | some c => exact .inr ⟨c, rfl, Part.choose_channel touch rotated (.inr noPort)⟩

/-- The second offer, behind the held access: the touch copier's grant at most. -/
theorem Part.offerIn_held {n : Nat} {b : Access} {st : Stall} {k : Nat} (soft : p.softReset ≠ .draining)
    (own : p.accessOf q = some b) (held : b.phase = .stalled st k) (other : p.portRequests q.other = false)
    (channels : p.arbiter.access = none → p.rotated? = none) :
    (Part.offerIn (n + 1) p).ports = p.ports ∧ (p.touchRequests = false → Part.offerIn (n + 1) p = p) := by
  by_cases busy : p.arbiter.access.isSome = true
  · rw [Part.offerIn_busy busy]
    exact ⟨rfl, fun _ => rfl⟩
  · have free : p.arbiter.access = none := by simpa using busy
    cases touch : p.touchRequests with
    | true =>
      rw [Part.offerIn_chosen free soft (Part.choose_touch touch)]
      refine ⟨?_, nofun⟩
      unfold Part.grantTouch
      split <;> rfl
    | false =>
      have ownNot : p.portRequests q = false := by rw [Part.portRequests, own]; dsimp only; rw [held]
      have noPort : p.selectedPort? = none := by
        cases q
        · exact Part.selectedPort?_none ownNot other
        · exact Part.selectedPort?_none other ownNot
      rw [Part.offerIn_chosen free soft (Part.choose_nobody touch (channels free) noPort)]
      exact ⟨rfl, fun _ => rfl⟩

theorem Part.rotated_congr {p q : Part} (arbiter : q.arbiter = p.arbiter) (channels : q.copy.channels = p.copy.channels) :
    q.rotated? = p.rotated? := by
  have requests : ∀ c, q.channelRequests c = p.channelRequests c := fun c => by
    simp only [Part.channelRequests, Part.channel, channels]
  simp only [Part.rotated?, requests, arbiter]

theorem Part.touchRequest_channels (p : Part) (x : Port) (w : Win) (line : Nat) :
    (p.touchRequest x w line).copy.channels = p.copy.channels := by
  unfold Part.touchRequest Part.touchTake
  repeat' split
  all_goals rfl

/-- The part with a held access and its touch request. -/
theorem Part.proceed_held {r : Part} {st : Stall} {sv : Service}
    (rest : (r.setAccess q { a with phase := .stalled st 0 }).atRest = true) (hs : r.service st.window = some sv) :
    (r.proceed q a (.stall st)).atRest = true ∧
      (r.proceed q a (.stall st)).ports = (r.setAccess q { a with phase := .stalled st 0 }).ports ∧
      (r.proceed q a (.stall st)).arbiter = r.arbiter ∧ (r.proceed q a (.stall st)).softReset = r.softReset ∧
      (r.proceed q a (.stall st)).copy.channels = r.copy.channels := by
  rw [Part.proceed_stall]
  cases st with
  | touchWait w line =>
    have keeps := (r.setAccess q { a with phase := .stalled (.touchWait w line) 0 }).keeps_touchRequest q w line
    have moves := (r.setAccess q { a with phase := .stalled (.touchWait w line) 0 }).moves_touchRequest (en := false) q w line
    exact ⟨Part.atRest_touchRequest rest hs line, keeps.ports, keeps.arbiter, moves.softReset,
      Part.touchRequest_channels _ _ _ _⟩
  | _ => exact ⟨rest, rfl, rfl, rfl, rfl⟩

/-- Behind a choice that withdrew the one port's access: it is held, and the offer leaves it so. -/
theorem Part.offer_held_after {r : Part} {st : Stall} {sv : Service} (free : p.arbiter.access = none)
    (soft : p.softReset ≠ .draining) (other : p.portRequests q.other = false)
    (chosen : p.choose 3 = (r, [(q, a, .stall st)]))
    (rest : (r.setAccess q { a with phase := .stalled st 0 }).atRest = true) (hs : r.service st.window = some sv)
    (ports : (r.setAccess q { a with phase := .stalled st 0 }).ports =
      (p.setAccess q { a with phase := .stalled st 0 }).ports) (softSame : r.softReset = p.softReset)
    (channels : r.arbiter.access = none → r.rotated? = none) :
    p.offer.accessOf q = some { a with phase := .stalled st 0 } ∧
      ((r.proceed q a (.stall st)).touchRequests = false → p.offer = r.proceed q a (.stall st)) := by
  obtain ⟨rest', ports', arbiter', soft', channels'⟩ := Part.proceed_held rest hs
  have offered : p.offer = Part.offerIn 2 (r.proceed q a (.stall st)) := by
    unfold Part.offer
    rw [Part.offerIn_withdrew free soft chosen, Part.goOn_single, Part.round_rest rest', Part.round_rest rest']
  rw [offered]
  generalize r.proceed q a (.stall st) = f at *
  generalize hb : ({ a with phase := .stalled st 0 } : Access) = b at *
  have same : f.ports = (p.setAccess q b).ports := ports'.trans ports
  have own : f.accessOf q = some b := by
    rw [← p.accessOf_setAccess q b]
    simp only [Part.accessOf, same]
  have beside : f.portRequests q.other = false := by
    have acc : f.accessOf q.other = p.accessOf q.other := by
      rw [← p.setAccess_accessOf_other q b]
      simp only [Part.accessOf, same]
    rw [Part.portRequests, acc]
    exact other
  obtain ⟨kept, alone⟩ := Part.offerIn_held (n := 1) (p := f) (by rw [soft', softSame]; exact soft) own
    (by rw [← hb]) beside fun h => by
      rw [Part.rotated_congr arbiter' channels']
      exact channels (by rw [← arbiter']; exact h)
  refine ⟨?_, alone⟩
  rw [← own]
  simp only [Part.accessOf, kept]

/-- The withdrawn access of the one port that requests is held under its new class. -/
theorem Part.offer_held {st : Stall} (free : p.arbiter.access = none) (soft : p.softReset ≠ .draining)
    (touch : p.touchRequests = false) (turn : p.rotated? = none ∨ p.arbiter.portRun < p.arbiter.runLimit)
    (selected : p.selectedPort? = some q) (acc : p.accessOf q = some a)
    (cls : p.classify q a.addr a.write = .stall st) (rest : p.atRest = true) (other : p.portRequests q.other = false) :
    p.offer.accessOf q = some { a with phase := .stalled st 0 } ∧
      ((∀ c, p.channelRequests c = false) → (∀ w line, st ≠ .touchWait w line) →
        p.offer = p.setAccess q { a with phase := .stalled st 0 }) := by
  obtain ⟨holds, sv, hs⟩ := Part.stalls_of_classify cls
  have chosen := Part.choose_withdraws (n := 2) touch turn selected acc (fun m => by rw [cls]; nofun)
  rw [cls] at chosen
  have heldRest := Part.atRest_held (q := q) (a := a) rest holds
  rcases Part.choose_beside (a := a) touch other with ⟨none, beside⟩ | ⟨c, some, beside⟩
  · rw [beside] at chosen
    have access := Part.setAccess_withdraw p q a { a with phase := .stalled st 0 }
    obtain ⟨held, alone⟩ := Part.offer_held_after free soft other chosen (by rw [access]; exact heldRest) hs
      (by rw [access]) rfl (fun _ => none)
    refine ⟨held, fun _ plain => ?_⟩
    have goesOn : (p.withdraw q a).proceed q a (.stall st) = p.setAccess q { a with phase := .stalled st 0 } := by
      rw [Part.proceed_stall, ← access]
      cases st with
      | touchWait w line => exact absurd rfl (plain w line)
      | _ => rfl
    rw [alone (by rw [goesOn]; exact touch), goesOn]
  · rw [beside] at chosen
    have requests : p.channelRequests c = true := by simpa using List.find?_some some
    obtain ⟨cp, line⟩ := Option.isSome_iff_exists.mp requests
    have access : ((p.withdraw q a).grantChannel c).setAccess q { a with phase := .stalled st 0 } =
        (p.setAccess q { a with phase := .stalled st 0 }).grantChannel c := by
      rw [Part.setAccess_grantChannel, Part.setAccess_withdraw]
    have granted := Part.grantChannel_eq (p := p.withdraw q a) (c := c) (cp := cp) line
    have keeps := (p.setAccess q { a with phase := .stalled st 0 }).grantChannel_keeps c
    obtain ⟨held, -⟩ := Part.offer_held_after free soft other chosen
      (by rw [access]; exact Part.atRest_grantChannel heldRest c)
      (by rw [Part.service_of_records ((p.withdraw q a).grantChannel_keeps c).1]; exact hs)
      (by rw [access]; exact keeps.2.2.1) (by rw [granted]; rfl) (fun h => by rw [granted] at h; cases h)
    exact ⟨held, fun noChannel _ => by rw [noChannel c] at requests; cases requests⟩

end

/-! ## The obligation -/

/-- Settles O52: each row of the order of choice, and the rest of the choice after a withdrawal. -/
theorem orderOfChoice : Obligations.OrderOfChoice := by
  unfold Obligations.OrderOfChoice
  intro p free soft channelTurn selected
  have offered : ∀ r, p.choose 3 = (r, []) → p.offer = r := fun r chosen => Part.offerIn_chosen free soft chosen
  have turnOf : ∀ q, selected q → p.rotated? = none ∨ p.arbiter.portRun < p.arbiter.runLimit := fun q ⟨_, turn, _⟩ =>
    turn.imp Part.rotated_none id
  have selectedOf : ∀ q, selected q → p.selectedPort? = some q := fun q ⟨_, _, own, last⟩ =>
    Part.selectedPort?_eq own last
  refine ⟨fun touch => offered _ (Part.choose_touch touch), fun c hc => ?_, fun q a m hq => ?_, fun q a hq => ?_,
    fun hn => ?_⟩
  · obtain ⟨touch, ⟨own, first⟩, turn⟩ := hc
    refine offered _ (Part.choose_channel touch (Part.rotated_first own first) (turn.imp id fun ports => ?_))
    exact Part.selectedPort?_none ports.1 ports.2
  · obtain ⟨sel, acc, cls⟩ := hq
    exact offered _ (Part.choose_port sel.1 (turnOf q sel) (selectedOf q sel) acc cls)
  · obtain ⟨sel, acc, notMemory⟩ := hq
    have touch := sel.1
    have withdrawn := Part.choose_withdraws (n := 2) touch (turnOf q sel) (selectedOf q sel) acc notMemory
    refine ⟨fun b m hb => ?_, fun c hc => ?_, fun st hst => ?_⟩
    · obtain ⟨otherRequests, accOther, cls⟩ := hb
      have own := p.withdraw_own q a
      have otherStill : (p.withdraw q a).portRequests q.other = true := by
        rw [Part.withdraw_portRequests_other]
        exact otherRequests
      have sel' : (p.withdraw q a).selectedPort? = some q.other :=
        Part.selectedPort?_eq otherStill fun h => by rw [Port.other_other, own] at h; cases h
      have chosen : (p.withdraw q a).choose 2 = ((p.withdraw q a).grantPort q.other b m, []) :=
        Part.choose_port touch (turnOf q sel) sel' ((p.withdraw_accessOf_other q a).trans accOther) cls
      rw [chosen] at withdrawn
      have granted := (p.withdraw q a).grantPort_get_same q.other b m
      obtain ⟨arbiter, access⟩ := Part.offer_withdrew free soft _ withdrawn (by rw [Part.grantPort_arbiter]; rfl)
      refine ⟨by rw [arbiter, Part.withdraw_grantPort_arbiter], ?_⟩
      rw [access fun x st n hx hp => ?_, granted]
      rw [granted] at hx
      cases hx
      cases hp
    · obtain ⟨other, own, first⟩ := hc
      rcases Part.choose_beside (a := a) touch other with ⟨none, -⟩ | ⟨d, some, beside⟩
      · rw [Part.rotated_first own first] at none
        cases none
      · rw [Part.rotated_first own first] at some
        cases some
        rw [beside] at withdrawn
        obtain ⟨cp, line⟩ := Option.isSome_iff_exists.mp own
        have granted := Part.grantChannel_eq (p := p.withdraw q a) (c := c) (cp := cp) line
        rw [(Part.offer_withdrew free soft _ withdrawn (by rw [granted]; rfl)).1, Part.withdraw_grantChannel]
        rfl
    · obtain ⟨cls, rest, other⟩ := hst
      obtain ⟨held, plain⟩ := Part.offer_held free soft touch (turnOf q sel) (selectedOf q sel) acc cls rest other
      exact ⟨held, fun h => plain h.1 h.2⟩
  · obtain ⟨touch, channels, a, b⟩ := hn
    exact Part.offer_noRequest touch channels a b

end Sys2Proof.Machine
end

section
/-!
The steps of a soft reset (R162, R163): the reset of every block with the accesses that go on, and the completions that
carry it on.
-/

namespace Sys2Proof.Machine

/-! ## Steps 2 and 3 -/

/-- Every block at its reset values, before the memory port is offered. -/
def Part.cleared (p : Part) : Part :=
  { Part.reset with
    ports := ⟨p.ports.a.afterSoftReset, p.ports.b.afterSoftReset⟩
    softReset := .finishing ⟨p.ports.a.access.isSome, p.ports.b.access.isSome⟩ }

theorem Part.softResetBlocks_eq (p : Part) : p.softResetBlocks = p.cleared.offer := rfl

theorem Part.cleared_channels (p : Part) (c : Chan) : p.cleared.channelRequests c = false := by
  revert c
  change ∀ c, Part.reset.channelRequests c = false
  decide

theorem Part.cleared_classify (p : Part) (q : Port) (addr : Addr) (write : Bool) :
    p.cleared.classify q addr write = .memory .passThrough := rfl

section
variable {p : Part} {q : Port}

theorem Part.cleared_accessOf (p : Part) (q : Port) : p.cleared.accessOf q =
    (p.accessOf q).map (fun a => { a with phase := .requesting .passThrough }) := by
  cases q <;> rfl

theorem Part.cleared_some {a : Access} (h : p.accessOf q = some a) :
    p.cleared.accessOf q = some { a with phase := .requesting .passThrough } := by
  rw [Part.cleared_accessOf, h]
  rfl

theorem Part.cleared_noRequest (h : p.accessOf q = none) : p.cleared.portRequests q = false :=
  Part.portRequests_none (by rw [Part.cleared_accessOf, h]; rfl)

theorem Part.cleared_requests {a : Access} (h : p.accessOf q = some a) : p.cleared.portRequests q = true := by
  rw [Part.portRequests, Part.cleared_some h]

/-- The one port with an access in progress, or Port B of two, is granted under the arbiter's reset state. -/
theorem Part.softResetBlocks_grants {a : Access} (own : p.accessOf q = some a)
    (first : p.cleared.portRequests q.other = true → q = .b) :
    p.softResetBlocks = p.cleared.grantPort q { a with phase := .requesting .passThrough } .passThrough := by
  have selected : p.cleared.selectedPort? = some q :=
    Part.selectedPort?_eq (Part.cleared_requests own) fun other => by rw [first other]; rfl
  rw [Part.softResetBlocks_eq]
  exact Part.offerIn_chosen rfl nofun
    (Part.choose_port rfl (.inl (Part.rotated_none p.cleared_channels)) selected (Part.cleared_some own)
      (p.cleared_classify q _ _))

end

theorem State.softResetCheck_ends {s : State} (h : s.part.softReset = .finishing ⟨false, false⟩) :
    s.softResetCheck = ({ s with part := { s.part with softReset := .none } }).result .ok := if_pos h

theorem State.softResetCheck_waits {s : State} (h : s.part.softReset ≠ .finishing ⟨false, false⟩) :
    s.softResetCheck = s := if_neg h

/-- Steps 2 to 4 in one event. -/
theorem State.softResetApply_eq (s : State) : s.softResetApply = s.softResetDoneAt s.part := by
  have apply : s.softResetApply = ({ s with part := s.part.softResetBlocks }).softResetCheck := rfl
  have portA : s.part.accessOf .a = s.part.ports.a.access := rfl
  have portB : s.part.accessOf .b = s.part.ports.b.access := rfl
  rw [apply]
  cases ha : s.part.accessOf .a with
  | none =>
    cases hb : s.part.accessOf .b with
    | none =>
      rw [Part.softResetBlocks_eq, Part.offer_noRequest rfl s.part.cleared_channels (Part.cleared_noRequest ha)
        (Part.cleared_noRequest hb), State.softResetCheck_ends]
      · simp only [State.softResetDoneAt, Part.softResetTo, ha, hb, Part.cleared, PortIf.afterSoftReset, ← portA, ← portB]
        rfl
      · simp only [Part.cleared, ← portA, ← portB, ha, hb]
        rfl
    | some b =>
      have none : s.part.cleared.portRequests .a = false := Part.cleared_noRequest ha
      rw [Part.softResetBlocks_grants hb fun _ => rfl, State.softResetCheck_waits]
      · simp only [State.softResetDoneAt, Part.softResetTo, ha, hb, Part.cleared, PortIf.afterSoftReset, ← portA, ← portB]
        rfl
      · simp only [Part.grantPort, Part.grantEffect, Part.cleared, ← portA, ← portB, ha, hb]
        exact nofun
  | some a =>
    cases hb : s.part.accessOf .b with
    | none =>
      have none : s.part.cleared.portRequests .b = false := Part.cleared_noRequest hb
      rw [Part.softResetBlocks_grants ha fun other => absurd none (by rw [show s.part.cleared.portRequests .b = true from other]; nofun), State.softResetCheck_waits]
      · simp only [State.softResetDoneAt, Part.softResetTo, ha, hb, Part.cleared, PortIf.afterSoftReset, ← portA, ← portB]
        rfl
      · simp only [Part.grantPort, Part.grantEffect, Part.cleared, ← portA, ← portB, ha, hb]
        exact nofun
    | some b =>
      rw [Part.softResetBlocks_grants hb fun _ => rfl, State.softResetCheck_waits]
      · simp only [State.softResetDoneAt, Part.softResetTo, ha, hb, Part.cleared, PortIf.afterSoftReset, ← portA, ← portB]
        rfl
      · simp only [Part.grantPort, Part.grantEffect, Part.cleared, ← portA, ← portB, ha, hb]
        exact nofun

/-! ## The completion that ends step 1 -/

/-- What a soft reset leaves is a matter of the ports alone. -/
theorem Part.softResetTo_congr {p q : Part} (h : q.ports = p.ports) : q.softResetTo = p.softResetTo := by
  have accessOf : ∀ x, q.accessOf x = p.accessOf x := fun x => by simp only [Part.accessOf, h]
  simp only [Part.softResetTo, accessOf, h]

theorem State.softResetDoneAt_congr {s : State} {p q : Part} (h : q.ports = p.ports) :
    s.softResetDoneAt q = s.softResetDoneAt p := by
  simp only [State.softResetDoneAt, Part.softResetTo_congr h]

theorem State.softResetDue_iff {s : State} : s.softResetDue = true ↔ s.part.softReset = .draining ∧
    ∃ m, s.part.arbiter.access = some m ∧ ∀ mask, m.kind ≠ .pairRead mask := by
  unfold State.softResetDue
  cases s.part.arbiter.access with
  | none => simp
  | some m =>
    obtain ⟨_, _, _, _, _, kind, _⟩ := m
    cases kind <;> simp

theorem exec_softResetApply (s : State) :
    exec .softResetApply s = .next (if s.softResetDue then s.memoryCompletion else s) := rfl

theorem exec_softResetDone (s : State) :
    exec .softResetDone s = .next (if s.softResetEnding then s.memoryCompletion else s) := rfl

theorem exec_memoryAccessCompletion (s : State) : exec .memoryAccessCompletion s = .next s.memoryCompletion := rfl

section
variable {s : State} {m : MemAccess}

theorem State.memoryCompletion_busy (access : s.part.arbiter.access = some m) :
    s.memoryCompletion = ({ s with mem := s.accessMem m } : State).useFree.completed m (s.accessWord m) := by
  simp only [State.memoryCompletion, access]

theorem State.completed_draining (word : Word) (kind : m.kind = .single ∨ m.kind = .pairWrite)
    (soft : s.part.softReset = .draining) :
    s.completed m word = ({ s with part := s.part.deliverLast m word }).softResetApply := by
  unfold State.completed
  rcases kind with k | k
  · simp only [k, soft]
  · simp only [k, soft]

theorem State.completed_finishing {awaited : PerPort Bool} (word : Word) (kind : m.kind = .single ∨ m.kind = .pairWrite)
    (soft : s.part.softReset = .finishing awaited) :
    s.completed m word = ({ s with part := s.part.finishAwaited m word awaited }).softResetCheck := by
  unfold State.completed
  rcases kind with k | k
  · simp only [k, soft]
  · simp only [k, soft]

theorem Part.deliverLast_copier (p : Part) (word : Word) (own : m.requestor = .touch ∨ ∃ c, m.requestor = .channel c) :
    (p.deliverLast m word).ports = p.ports := by
  unfold Part.deliverLast
  rcases own with h | ⟨c, h⟩
  · rw [h]
    dsimp only
    split <;> rfl
  · rw [h]
    dsimp only
    split <;> rfl

theorem Part.deliverLast_port {q : Port} (p : Part) (word : Word) (own : m.requestor = .port q) :
    p.deliverLast m word = p.completeAccess q (if m.write then none else some word) := by
  unfold Part.deliverLast
  rw [own]

/-- The completion that ends step 1: the requestor has its word, and steps 2 to 4 follow. -/
theorem State.memoryCompletion_draining (access : s.part.arbiter.access = some m)
    (kind : m.kind = .single ∨ m.kind = .pairWrite) (soft : s.part.softReset = .draining) :
    s.memoryCompletion = { s.softResetDoneAt (s.part.deliverLast m (s.accessWord m)) with
      mem := s.accessMem m, freeIndex := s.freeIndex + 1 } := by
  have part : ({ s with mem := s.accessMem m } : State).useFree.part = s.part := rfl
  rw [State.memoryCompletion_busy access, State.completed_draining _ kind (part ▸ soft), part, State.softResetApply_eq]
  generalize s.part.deliverLast m (s.accessWord m) = p
  rfl

end

/-! ## The completions of step 4 -/

section
variable {s : State} {m : MemAccess} {q : Port} {awaited : PerPort Bool}

theorem PerPort.set_false_eq (awaited : PerPort Bool) (q : Port) :
    awaited.set q false = ⟨false, false⟩ ↔ awaited.get q.other = false := by
  obtain ⟨a, b⟩ := awaited
  cases q <;> cases a <;> cases b <;> decide

theorem State.softResetEnding_port (soft : s.part.softReset = .finishing awaited)
    (access : s.part.arbiter.access = some m) (own : m.requestor = .port q) :
    s.softResetEnding = true ↔ awaited.get q.other = false := by
  have ending : s.softResetEnding = decide (awaited.set q false = ⟨false, false⟩) := by
    simp only [State.softResetEnding, soft, access, own, awaitedAfter]
  rw [ending, decide_eq_true_eq, PerPort.set_false_eq]

/-- A completion of step 4 outside the SRAM. -/
theorem State.memoryCompletion_finishing (access : s.part.arbiter.access = some m)
    (kind : m.kind = .single ∨ m.kind = .pairWrite) (soft : s.part.softReset = .finishing awaited) :
    s.memoryCompletion = ({ ({ s with mem := s.accessMem m } : State).useFree with
      part := s.part.finishAwaited m (s.accessWord m) awaited }).softResetCheck := by
  have part : ({ s with mem := s.accessMem m } : State).useFree.part = s.part := rfl
  rw [State.memoryCompletion_busy access, State.completed_finishing _ kind (part ▸ soft), part]

end

/-- A port's access ends: its interface is empty, and drives a read's word while the bus cycle runs (R26, R27). -/
theorem Part.completeAccess_ended (p : Part) (q : Port) (write : Bool) (word : Word) :
    p.completeAccess q (if write then none else some word) =
      p.withPort q ⟨none, if (p.ports.get q).busCycle ∧ write = false then some word else none, (p.ports.get q).busCycle⟩ := by
  rw [Part.completeAccess_eq]
  cases write <;> simp

/-- Settles O53: the frame end, the completion that ends step 1, and those of step 4. -/
theorem softResetInSteps : Obligations.SoftResetInSteps := by
  unfold Obligations.SoftResetInSteps
  intro s q m ended slow taken
  have word : s.mem.wf = true → taken (s.accessWord m) (s.accessMem m) := fun wf =>
    ⟨fun read => ⟨State.accessMem_read read, State.accessWord_lanes⟩, State.accessMem_afterWrite wf⟩
  have answered : s.part.completeAccess q (if m.write then none else some (s.accessWord m)) =
      s.part.withPort q (ended m.write (s.accessWord m)) :=
    Part.completeAccess_ended s.part q m.write (s.accessWord m)
  refine ⟨fun gives => ?_, fun h => ?_, fun awaited h => ?_, fun h => ?_, fun h => ?_⟩
  · have entry : exec .softReset s = .next s.frameEnded.softResetTaken :=
      congrArg Host.Outcome.next (State.frameEnd_given gives)
    rw [entry]
    refine ⟨fun free => ?_, fun busy => ?_⟩
    · have idle : s.frameEnded.part.arbiter.access.isSome = false := by
        rw [show s.frameEnded.part = s.part from rfl, free]
        rfl
      unfold State.softResetTaken
      rw [idle]
      simp only [Bool.false_eq_true, if_false]
      rw [State.softResetApply_eq]
      rfl
    · have isBusy : s.frameEnded.part.arbiter.access.isSome = true := by
        rw [show s.frameEnded.part = s.part from rfl]
        exact Option.isSome_iff_ne_none.mpr busy
      unfold State.softResetTaken
      rw [if_pos isBusy]
      rfl
  · obtain ⟨soft, access, kind, wf⟩ := h
    have due : s.softResetDue = true := State.softResetDue_iff.mpr ⟨soft, m, access, fun mask pair => by
      rcases kind with k | k <;> rw [k] at pair <;> cases pair⟩
    have done := State.memoryCompletion_draining access kind soft
    rw [exec_softResetApply, exec_memoryAccessCompletion, if_pos due, done]
    refine ⟨s.accessWord m, s.accessMem m, word wf, rfl, fun own => ?_, fun own => ?_⟩
    · rw [Part.deliverLast_port _ _ own, answered]
    · rw [State.softResetDoneAt_congr (Part.deliverLast_copier _ _ own)]
  · obtain ⟨soft, access, own, kind, wf⟩ := h
    have ending := State.softResetEnding_port soft access own
    have done := State.memoryCompletion_finishing access kind soft
    rw [exec_softResetDone, exec_memoryAccessCompletion]
    refine ⟨fun h => ?_, fun h => ?_⟩
    · obtain ⟨last, rest, only⟩ := h
      refine ⟨s.accessWord m, s.accessMem m, word wf, by rw [if_pos (ending.mpr last)], ?_⟩
      rw [if_pos (ending.mpr last), done, Part.finishAwaited, Part.finishAccess_port own rest only, answered,
        State.softResetCheck_ends]
      · rfl
      · rw [own]
        exact congrArg SoftReset.finishing ((PerPort.set_false_eq awaited q).mpr last)
    · have waits : awaited.set q false ≠ ⟨false, false⟩ := fun e => by
        rw [(PerPort.set_false_eq awaited q).mp e] at h
        cases h
      have notEnding : ¬ s.softResetEnding = true := fun e => by
        rw [ending.mp e] at h
        cases h
      rw [if_neg notEnding]
      refine ⟨rfl, _, rfl, ?_⟩
      have softAfter : (s.part.finishAwaited m (s.accessWord m) awaited).softReset = .finishing (awaited.set q false) := by
        unfold Part.finishAwaited
        rw [own]
        rfl
      rw [done]
      generalize s.part.finishAwaited m (s.accessWord m) awaited = p at softAfter
      rw [State.softResetCheck_waits]
      · exact ⟨softAfter, rfl⟩
      · intro e
        have e : p.softReset = .finishing ⟨false, false⟩ := e
        rw [softAfter] at e
        exact waits (SoftReset.finishing.inj e)
  · have notDue : ¬ s.softResetDue = true := fun due => by
      obtain ⟨soft, m', access, single⟩ := State.softResetDue_iff.mp due
      rcases h with h | h | ⟨h, mask, pair⟩
      · exact h soft
      · rw [h] at access
        cases access
      · rw [h] at access
        cases access
        exact single mask pair
    rw [exec_softResetApply, if_neg notDue]
  · have notEnding : s.softResetEnding = false := by
      unfold State.softResetEnding
      split
      · rename_i awaited m' soft access
        rcases h with h | h
        · exact absurd soft (h awaited)
        · rw [h] at access
          cases access
      · rfl
    rw [exec_softResetDone, notEnding]
    rfl

end Sys2Proof.Machine
end

section
/-!
What holds of a part as an event settles: a property that the steps of settling keep, with the ports whose access goes on.
-/

namespace Sys2Proof.Machine

/-- The access of a port can go on: it requests the memory port, or its stall has ended (R29, R142). -/
def Part.canGoOn (p : Part) (x : Port) (a : Access) : Prop :=
  (∃ m, a.phase = .requesting m) ∨ ∃ st n, a.phase = .stalled st n ∧ p.stallEnded x st = true

/-- The property `P` is kept by every step of settling, in which only accesses of the ports in `G` go on, under the classes
in `C`. -/
structure Part.Settles (P : Part → Prop) (G : Port → Prop) (C : AccessClass → Prop) : Prop where
  arbiter : ∀ p x, P p → P { p with arbiter := x }
  step : ∀ p c, P p → P (p.channelStep c)
  take : ∀ p c e rest, p.copy.waiting = e :: rest → P p → P (p.takeHead c e rest)
  touch : ∀ p, P p → P p.touchTake
  deferred : ∀ p x, P p → P (p.makeDeferred x)
  proceed : ∀ p x a c, G x → C c → P p → P (p.proceed x a c)
  request : ∀ p x a, G x → P p → P (p.setAccess x a)
  effect : ∀ p x a m, P p → P (p.grantEffect x a m)
  moving : ∀ p x a, P p → p.accessOf x = some a → p.canGoOn x a → G x
  class_ : ∀ p x addr write, P p → C (p.classify x addr write)

section
variable {P : Part → Prop} {G : Port → Prop} {C : AccessClass → Prop} {p : Part}

theorem Part.Settles.stepChannels (k : Part.Settles P G C) (h : P p) : P p.stepChannels :=
  k.step _ 0 (k.step _ 1 (k.step _ 2 (k.step _ 3 h)))

theorem Part.Settles.grantChannel (k : Part.Settles P G C) (h : P p) (c : Chan) : P (p.grantChannel c) := by
  unfold Part.grantChannel
  split
  · exact h
  · exact k.arbiter p _ h

theorem Part.Settles.grantTouch (k : Part.Settles P G C) (h : P p) : P p.grantTouch := by
  unfold Part.grantTouch
  split
  · exact h
  · exact k.arbiter p _ h

theorem Part.Settles.takeJobs (k : Part.Settles P G C) (n : Nat) : ∀ {p : Part}, P p → P (Part.takeJobs n p) := by
  induction n with
  | zero => exact id
  | succ n ih =>
    intro p h
    unfold Part.takeJobs
    split
    · rename_i c e rest _ waiting
      have taken := k.take p c e rest waiting h
      refine ih ?_
      unfold Part.chooseAtOnce
      split
      · exact taken
      · exact k.grantChannel taken c
    · exact h

theorem Part.Settles.reclassify (k : Part.Settles P G C) (h : P p) (x : Port) : P (p.reclassify x) := by
  unfold Part.reclassify
  split
  · exact h
  · rename_i a acc
    split
    · rename_i st n stalled
      split
      · rename_i ended
        exact k.proceed p x a _ (k.moving p x a h acc (.inr ⟨st, n, stalled, ended.2⟩)) (k.class_ p x _ _ h) h
      · exact h
    · exact h

theorem Part.Settles.round (k : Part.Settles P G C) (h : P p) : P p.round :=
  k.reclassify (k.reclassify (k.deferred _ .b (k.deferred _ .a (k.touch _ (k.takeJobs takeFuel (k.stepChannels h))))) .a) .b

theorem Part.selectedPort?_requests {q : Port} (h : p.selectedPort? = some q) : p.portRequests q = true := by
  unfold Part.selectedPort? at h
  cases ha : p.portRequests .a <;> cases hb : p.portRequests .b <;> simp only [ha, hb] at h
  · cases h
  · cases h
    exact hb
  · cases h
    exact ha
  · cases q
    · exact ha
    · exact hb

theorem Part.portRequests_phase {q : Port} {a : Access} (h : p.portRequests q = true) (acc : p.accessOf q = some a) :
    ∃ m, a.phase = .requesting m := by
  rw [Part.portRequests, acc] at h
  dsimp only at h
  split at h
  · exact ⟨_, ‹_›⟩
  · cases h

theorem Part.Settles.grantPort (k : Part.Settles P G C) (h : P p) {x : Port} (goes : G x) (a : Access) (m : MemClass) :
    P (p.grantPort x a m) :=
  k.arbiter _ _ (k.request _ x _ goes (k.effect p x a m h))

/-- The choice keeps the property, and what it withdraws may go on. -/
theorem Part.Settles.choose (k : Part.Settles P G C) (n : Nat) : ∀ {p : Part}, P p →
    P (p.choose n).1 ∧ ∀ x ∈ (p.choose n).2, G x.1 ∧ C x.2.2 := by
  induction n with
  | zero => exact fun h => ⟨h, List.forall_mem_nil _⟩
  | succ n ih =>
    intro p h
    unfold Part.choose
    split
    · exact ⟨k.grantTouch h, List.forall_mem_nil _⟩
    · split
      · exact ⟨k.grantChannel h _, List.forall_mem_nil _⟩
      · split
        · rename_i q selected
          split
          · rename_i a acc
            have goes : G q := k.moving p q a h acc
              (.inl (Part.portRequests_phase (Part.selectedPort?_requests selected) acc))
            have cls := k.class_ p q a.addr a.write h
            generalize p.classify q a.addr a.write = new at cls ⊢
            split
            · exact ⟨k.grantPort h goes a _, List.forall_mem_nil _⟩
            · obtain ⟨rest, withdrawn⟩ := ih (p := p.withdraw q a) (k.request p q _ goes h)
              refine ⟨rest, fun x hx => ?_⟩
              rcases List.mem_cons.mp hx with rfl | later
              · exact ⟨goes, cls⟩
              · exact withdrawn x later
          · exact ⟨h, List.forall_mem_nil _⟩
        · split
          · exact ⟨k.grantChannel h _, List.forall_mem_nil _⟩
          · exact ⟨h, List.forall_mem_nil _⟩

theorem Part.Settles.goOn (k : Part.Settles P G C) (l : List (Port × Access × AccessClass)) :
    ∀ {p : Part}, (∀ x ∈ l, G x.1 ∧ C x.2.2) → P p → P (p.goOn l) := by
  induction l with
  | nil => exact fun _ h => h
  | cons x rest ih =>
    intro p all h
    obtain ⟨goes, cls⟩ := all x List.mem_cons_self
    exact ih (fun y hy => all y (List.mem_cons_of_mem x hy)) (k.proceed p x.1 x.2.1 x.2.2 goes cls h)

theorem Part.Settles.offerIn (k : Part.Settles P G C) (n : Nat) : ∀ {p : Part}, P p → P (Part.offerIn n p) := by
  induction n with
  | zero => exact id
  | succ n ih =>
    intro p h
    obtain ⟨chosen, withdrawn⟩ := k.choose 3 h
    unfold Part.offerIn
    dsimp only
    repeat' split
    · exact chosen
    · exact ih (k.round (k.round (k.goOn _ withdrawn chosen)))
    · exact h

/-- An event settles, and the property stays. -/
theorem Part.Settles.settle (k : Part.Settles P G C) (h : P p) : P p.settle := by
  rw [Part.settle, Part.offer]
  exact k.offerIn 3 (k.round (k.round h))

end

/-! ## Properties that settling keeps -/

/-- With every window that is in service behind STOPPING, settling ends in STANDBY or with one still in service. -/
theorem Part.settles_inUse : Part.Settles Part.InUse (fun _ => True) (fun _ => True) where
  arbiter _ _ h := h.congr rfl fun _ => id
  step p c := (p.keeps_channelStep c).use
  take p c e rest _ := (p.keeps_takeHead c e rest).use
  touch p := p.keeps_touchTake.use
  deferred p x := (p.keeps_makeDeferred x).use
  proceed p x a c _ _ := (p.keepsBut_proceed x a c).use
  request p x a _ := (p.keepsBut_setAccess x a).use
  effect p x a m h := by
    unfold Part.grantEffect
    repeat' split
    · exact h
    · exact (p.keeps_setService _ _).use h
    · exact h
    · exact h
  moving _ _ _ _ _ _ := trivial
  class_ _ _ _ _ _ := trivial

/-- A port without an access stands, and every notice pending on it with it. -/
def Part.Stands (q : Port) (i : PortIf) (w : Win) (n : Notice) (p : Part) : Prop := p.ports.get q = i ∧ p.pending q w n

theorem Part.Stands.keeps {q : Port} {i : PortIf} {w : Win} {n : Notice} {p r : Part} (h : p.Stands q i w n)
    (keeps : Part.Keeps p r) : r.Stands q i w n :=
  ⟨by rw [keeps.ports]; exact h.1, keeps.notices q w n h.2⟩

theorem Part.Stands.keepsBut {q x : Port} {i : PortIf} {w : Win} {n : Notice} {p r : Part} (h : p.Stands q i w n)
    (other : x ≠ q) (keeps : Part.KeepsBut x p r) : r.Stands q i w n :=
  ⟨(keeps.ports q other.symm).trans h.1, keeps.notices q other.symm w n h.2⟩

theorem Part.settles_stands {q : Port} {i : PortIf} (empty : i.access = none) (w : Win) (n : Notice) :
    Part.Settles (Part.Stands q i w n) (fun x => x ≠ q) (fun _ => True) where
  arbiter _ _ h := h
  step p c h := h.keeps (p.keeps_channelStep c)
  take p c e rest _ h := h.keeps (p.keeps_takeHead c e rest)
  touch p h := h.keeps p.keeps_touchTake
  deferred p x h := h.keeps (p.keeps_makeDeferred x)
  proceed p x a c other _ h := h.keepsBut other (p.keepsBut_proceed x a c)
  request p x a other h := h.keepsBut other (p.keepsBut_setAccess x a)
  effect p x a m h := by
    unfold Part.grantEffect
    repeat' split
    · exact h.keeps (p.keeps_note _ _ _)
    · exact h.keeps (p.keeps_setService _ _)
    · exact h
    · exact h
  moving p x a h acc _ := by
    rintro rfl
    rw [Part.accessOf, h.1, empty] at acc
    cases acc
  class_ _ _ _ _ _ := trivial

end Sys2Proof.Machine
end

section
/-!
The end of a window stall at its limit (R44 to R46): the access of the port ends at its tick, and stays ended through a
boundary of the same tick.
-/

namespace Sys2Proof.Machine

/-! ## A boundary keeps a STALL_TIMEOUT -/

theorem roleKeeps_stallTimeout (producer : Bool) (n : NoticeSet) :
    (roleKeeps producer n).getLsbD Notice.stallTimeout.bit = n.getLsbD Notice.stallTimeout.bit := by
  revert n producer
  decide

section
variable {p : Part} {q : Port} {w v : Win}

theorem Part.keeps_handleBoundary (p : Part) (v : Win) : Part.Keeps p (p.handleBoundary v) := by
  have ages : ∀ {r : Part} {sv : Service}, r.service v = some sv → Part.Keeps r (r.ageStep v) := fun {r sv} hs =>
    r.keeps_setRecord v (Option.isSome_iff_exists.mpr ⟨sv, hs⟩)
  have release : Part.Keeps p (p.boundaryRelease v) := by
    unfold Part.boundaryRelease
    repeat' split
    · exact .refl p
    · exact .refl p
    · exact (p.keeps_note _ v _).trans (Part.keeps_setService _ v _)
    · exact .refl p
    · exact p.keeps_release v
  have pin : ∀ r : Part, Part.Keeps r (r.boundaryPin v) := fun r => by
    have ends : Part.Keeps r (r.endPin v) := by
      unfold Part.endPin
      split
      exacts [.refl r, r.keeps_setService v _]
    unfold Part.boundaryPin
    repeat' split
    · exact .refl r
    · exact .refl r
    · exact ends.trans (Part.keeps_note _ _ v _)
    · exact r.keeps_setService v _
  have flip : ∀ r : Part, Part.Keeps r (r.boundaryFlip v) := fun r => by
    unfold Part.boundaryFlip
    split
    · exact .refl r
    · rename_i sv hs
      split_ifs
      · exact (r.keeps_setService v _).trans (ages (r.service_setService_same v _))
      · exact r.keeps_flip v false
      · exact ages hs
  exact (release.trans (pin _)).trans (flip _)

theorem Part.pending_retire {k : Notice} (h : p.pending q w k) : (p.retire v).pending q w k := by
  have record : (p.retireRecord v).pending q w k := by
    have ends : Part.Keeps p (p.endPin v) := by
      unfold Part.endPin
      split
      exacts [.refl p, p.keeps_setService v _]
    have flipped := (ends.trans (Part.keeps_flip _ v false)).notices q w k h
    unfold Part.retireRecord
    dsimp only
    split
    · exact flipped
    · exact flipped
  unfold Part.retire
  generalize p.retireRecord v = r at record ⊢
  dsimp only
  split
  · exact record
  · split
    · exact Part.pending_noteBoth (p := ((r.removeTouches v true).drainWindow v).dropService v) record v .retired
    · exact Part.pending_congr (p := r) ((r.removeTouches v false).convertToRetire_keeps v).1 record

theorem Part.pending_enable (h : p.pending q w .stallTimeout) : (p.enable v).pending q w .stallTimeout := by
  by_cases same : v = w
  · subst same
    rw [Part.pending, Part.enable_notices, roleKeeps_stallTimeout]
    exact h
  · rw [Part.pending, (p.untouched_enable same).notices q]
    exact h

theorem Part.pending_windowAtBoundary (h : p.pending q w .stallTimeout) (applied : Bool) :
    (p.windowAtBoundary applied v).pending q w .stallTimeout := by
  have pin : Part.Keeps p (p.endPinByApply v) := by
    unfold Part.endPinByApply Part.endPin
    repeat' split
    · exact .refl p
    · exact p.keeps_setService v _
    · exact .refl p
  unfold Part.windowAtBoundary
  repeat' split
  · exact Part.pending_enable h
  · exact h
  · exact h
  · exact (pin.trans (Part.keeps_handleBoundary _ v)).notices q w _ h
  · exact Part.pending_retire h
  · exact (p.keeps_handleBoundary v).notices q w _ h

/-- A boundary leaves a port whose stall has ended as it is, STALL_TIMEOUT pending. -/
theorem Part.Stands.boundary {i : PortIf} (h : p.Stands q i w .stallTimeout) (timer : Timer) :
    (p.boundaryAt timer).Stands q i w .stallTimeout := by
  have windows : ∀ (applied : BitVec 16) (l : List Win) (r : Part), r.Stands q i w .stallTimeout →
      (r.windowsAtBoundary applied l).Stands q i w .stallTimeout := by
    intro applied l
    induction l with
    | nil => exact fun _ h => h
    | cons x rest ih =>
      intro r hr
      refine ih _ ⟨?_, Part.pending_windowAtBoundary hr.2 _⟩
      rw [(r.calm_windowAtBoundary x _).ports]
      exact hr.1
  have noted : (({ p with timer := timer }).noteGlobal .boundary).Stands q i w .stallTimeout := by
    refine ⟨h.1, ?_⟩
    have pending := h.2
    rw [Part.pending] at pending ⊢
    cases q <;> simpa only [Part.noteGlobal, PerPort.get, NoticeUnit.window_recordGlobal] using pending
  rw [Part.boundaryAt, Part.deliverBoundary_eq]
  generalize ({ p with timer := timer }).noteGlobal .boundary = r at noted
  refine windows _ _ _ ⟨?_, ?_⟩
  · rw [r.applyAttempt_keeps.2.2.2.2.1]
    exact noted.1
  · rw [Part.pending, Part.applyAttempt_window]
    exact noted.2

end

/-! ## The end of a stall at its limit -/

section
variable {p : Part} {q : Port} {a : Access} {st : Stall} {w : Win} {k : Notice}

/-- The interface of a port whose access the stall limit ended (R45). -/
def PortIf.timedOut (i : PortIf) (a : Access) : PortIf :=
  ⟨none, if i.busCycle ∧ a.write = false then some 0xFFFF#16 else none, i.busCycle⟩

/-- The part in which the stall of the port has ended, its interface so (R45, R86). -/
def Part.stallOver (p : Part) (q : Port) (st : Stall) (i : PortIf) : Part :=
  let noted := (p.withPort q i).note q st.window .stallTimeout
  match st with
  | .touchWait _ _ => noted.dropTouch q
  | _ => noted

theorem Part.timeout_due (due : p.stallDue q = some st) (acc : p.accessOf q = some a) :
    p.timeout q = p.stallOver q st ((p.ports.get q).timedOut a) := by
  have ended := p.completeAccess_ended q a.write 0xFFFF#16
  unfold Part.timeout
  rw [due, acc]
  dsimp only
  rw [ended]
  cases st <;> rfl

theorem Part.stands_timedOut (due : p.stallDue q = some st) (acc : p.accessOf q = some a) :
    (p.timeout q).Stands q ((p.ports.get q).timedOut a) st.window .stallTimeout := by
  have ports : (p.withPort q ((p.ports.get q).timedOut a)).ports.get q = (p.ports.get q).timedOut a :=
    PerPort.get_set_same _ _ _
  have noted := Part.pending_note_same (p.withPort q ((p.ports.get q).timedOut a)) q st.window .stallTimeout
  rw [Part.timeout_due due acc]
  cases st with
  | touchWait v l => exact ⟨ports, noted⟩
  | retiring v => exact ⟨ports, noted⟩
  | releasePending v => exact ⟨ports, noted⟩

/-- The other port's stall that ends at its limit takes no part. -/
theorem Part.keepsBut_timeout (p : Part) (x : Port) : Part.KeepsBut x p (p.timeout x) := by
  unfold Part.timeout
  split
  · rename_i st a _ _
    have done := (p.keepsBut_completeAccess x (if a.write then none else some 0xFFFF#16)).trans
      ((Part.keeps_note _ x st.window .stallTimeout).but x)
    dsimp only
    split
    · rename_i v l
      have dropped : ∀ r : Part, Part.Keeps r (r.dropTouch x) := fun _ => .of_copy rfl rfl rfl rfl rfl
      exact done.trans ((dropped _).but x)
    · exact done
  · exact .refl p x

theorem Part.stallDue_timeout_ne {x : Port} (other : x ≠ q) : (p.timeout x).stallDue q = p.stallDue q := by
  have access : (p.timeout x).accessOf q = p.accessOf q := by
    simp only [Part.accessOf, (p.keepsBut_timeout x).ports q other.symm]
  have moves := p.moves_timeout (en := false) x
  unfold Part.stallDue
  rw [access, moves.softReset, moves.stallLimit]

/-- A port without an access has no stall at its limit. -/
theorem Part.Stands.timeout {i : PortIf} (h : p.Stands q i w k) (empty : i.access = none) (x : Port) :
    (p.timeout x).Stands q i w k := by
  by_cases same : x = q
  · subst same
    rw [Part.timeout_none (Part.stallDue_none (by rw [Part.accessOf, h.1]; exact empty))]
    exact h
  · exact h.keepsBut same (p.keepsBut_timeout x)

theorem Part.Stands.timeouts {i : PortIf} (h : p.Stands q i w k) (empty : i.access = none) : p.timeouts.Stands q i w k :=
  (h.timeout empty .a).timeout empty .b

/-- Among the stalls that end at a tick is the port's. -/
theorem Part.stands_timeouts (due : p.stallDue q = some st) (acc : p.accessOf q = some a) :
    p.timeouts.Stands q ((p.ports.get q).timedOut a) st.window .stallTimeout := by
  cases q with
  | a => exact (Part.stands_timedOut due acc).timeout rfl .b
  | b =>
    have others := p.keepsBut_timeout .a
    have still : (p.timeout .a).accessOf .b = p.accessOf .b := by
      simp only [Part.accessOf, others.ports .b (by decide)]
    have ended := Part.stands_timedOut (p := p.timeout .a) ((Part.stallDue_timeout_ne (by decide)).trans due)
      (still.trans acc)
    rw [others.ports .b (by decide)] at ended
    exact ended

theorem Part.Stands.dueBoundary {i : PortIf} (h : p.Stands q i w .stallTimeout) (empty : i.access = none) (d : Due) :
    (p.dueBoundary d).Stands q i w .stallTimeout := by
  have settles := Part.settles_stands (q := q) empty w .stallTimeout
  have made : p.boundary.Stands q i w .stallTimeout := by
    rw [Part.boundary_eq]
    exact h.boundary _
  have lost : ∀ r : Part, r.Stands q i w .stallTimeout → r.loseLock.Stands q i w .stallTimeout := fun r hr => by
    refine ⟨hr.1, ?_⟩
    have pending := hr.2
    rw [Part.pending] at pending ⊢
    cases q <;> simpa only [Part.loseLock, Part.noteGlobal, PerPort.get, NoticeUnit.window_recordGlobal] using pending
  unfold Part.dueBoundary
  cases d <;> dsimp only
  case nothing => exact h
  case period => exact settles.settle made
  case flywheel => exact settles.settle made
  case loss =>
    exact settles.settle (lost _ made)

/-- At its tick, the stalls taken before any boundary, the port's access ends and stays ended. -/
theorem Part.stands_tick {timer : Timer} (running : p.timer.running = true) (ticks : timer = p.timer.tick)
    (due : (p.ticked timer).stallDue q = some st) (acc : (p.ticked timer).accessOf q = some a) :
    (p.tick ⟨true, true⟩).Stands q (((p.ticked timer).ports.get q).timedOut a) st.window .stallTimeout := by
  subst ticks
  have ended := Part.stands_timeouts due acc
  have any : (p.ticked p.timer.tick).anyStallDue = true := by
    unfold Part.anyStallDue
    cases q
    · rw [due]
      rfl
    · rw [due, Option.isSome_some, Bool.or_true]
  rw [Part.tick, if_pos running]
  dsimp only
  rw [Part.advanceStalls_ticked]
  split_ifs
  · exact ended
  · exact (ended.dueBoundary rfl _).timeouts rfl

end

theorem exec_stallLimitReached (q : Port) (s : State) : exec (.stallLimitReached q) s =
    .next (if s.part.stallNext q then s.tick ⟨true, true⟩ else s) := rfl

/-- Settles O29: the tick at which the port's stall comes to its limit. -/
theorem stallLimitReached : Obligations.StallLimitReached := by
  unfold Obligations.StallLimitReached
  intro q s
  refine ⟨fun a st n h => ?_, fun h => ?_⟩
  · obtain ⟨acc, stalled, running, soft, limited, reached⟩ := h
    intro busy ended ticked p untouched
    have tickedAcc := Part.ticked_stalled (timer := s.part.timer.tick) acc stalled
    have due : (s.part.ticked s.part.timer.tick).stallDue q = some st := by
      rw [Part.stallDue_stalled tickedAcc rfl]
      exact if_pos ⟨soft, limited, reached⟩
    have next : s.part.stallNext q = true := by
      have same : s.part.advanceStalls.stallDue q = (s.part.ticked s.part.timer.tick).stallDue q := rfl
      rw [Part.stallNext, running, same, due]
      rfl
    have interface : ((s.part.ticked s.part.timer.tick).ports.get q).timedOut
        { a with phase := .stalled st (n + 1) } = ended := by
      rw [Part.ticked_get, PortIf.tick_stalled acc stalled]
      rfl
    have counted : s.part.ticked s.part.timer.tick = ticked := by rw [Timer.tick_counted]; rfl
    have stands := Part.stands_tick running rfl due tickedAcc
    rw [interface] at stands
    rw [exec_stallLimitReached, if_pos next]
    refine ⟨⟨_, rfl, stands.1, stands.2⟩, fun plain => ?_⟩
    obtain ⟨noBoundary, noOther⟩ := plain
    have others : (s.part.ticked s.part.timer.tick).stallDue q.other = none := Part.stallDue_ticked noOther
    have single : (s.part.ticked s.part.timer.tick).timeouts = (s.part.ticked s.part.timer.tick).timeout q := by
      cases q with
      | a =>
        rw [Part.timeouts, Part.timeout_none (q := .b)]
        exact (Part.stallDue_timeout_ne (by decide)).trans others
      | b => rw [Part.timeouts, Part.timeout_none (q := .a) others]
    have tick : s.part.tick ⟨true, true⟩ = (s.part.ticked s.part.timer.tick).timeout q := by
      rw [Part.tick_plain running noBoundary, ← Timer.tick_counted, single]
    have out := Part.timeout_due due tickedAcc
    rw [interface, counted] at out
    have state : s.tick ⟨true, true⟩ = s.onPart (s.part.tick ⟨true, true⟩) := rfl
    rw [state, tick, counted, out]
    cases st <;> rfl
  · have still : s.part.stallNext q = false := by
      rcases h with stopped | none
      · rw [Part.stallNext, stopped]
        rfl
      · have same : s.part.advanceStalls.stallDue q = (s.part.ticked s.part.timer.tick).stallDue q := rfl
        rw [Part.stallNext, same, Part.stallDue_ticked none]
        exact Bool.and_false _
    rw [exec_stallLimitReached, still]
    rfl

end Sys2Proof.Machine
end

section
/-!
A write whose touch copy is under way as its window becomes RETIRING: it waits on for the copy (R68, R70, R90).
-/

namespace Sys2Proof.Machine

/-! ## What leaves a window's home-going alone -/

/-- The window has the job with the Copy Engine, waiting or served. -/
def Part.hasJob (p : Part) (w : Win) (job : Job) : Prop :=
  (∃ e ∈ p.copy.waiting, e.window = w ∧ e.job = job) ∨ ∃ c cp, (p.channel c).work = .serving w job cp

/-- The window's stale sets stand, it is RETIRING as before, its touch entry in service is kept and it has no new job. -/
structure Part.Apart (w : Win) (p q : Part) : Prop where
  service : ∀ sv, p.service w = some sv →
    ∃ sv', q.service w = some sv' ∧ sv'.retiring = sv.retiring ∧ sv'.stale = sv.stale
  queue : ∀ e ∈ p.copy.queue, e.inService = true → e.window = w → e ∈ q.copy.queue
  jobs : ∀ job, q.hasJob w job → p.hasJob w job

section
variable {w v : Win} {p q r : Part}

theorem Part.Apart.trans (h : Part.Apart w p q) (k : Part.Apart w q r) : Part.Apart w p r :=
  ⟨fun sv hs => by
      obtain ⟨sv1, hs1, ret1, stale1⟩ := h.service sv hs
      obtain ⟨sv2, hs2, ret2, stale2⟩ := k.service sv1 hs1
      exact ⟨sv2, hs2, ret2.trans ret1, stale2.trans stale1⟩,
    fun e he served own => k.queue e (h.queue e he served own) served own, fun job => h.jobs job ∘ k.jobs job⟩

theorem Part.hasJob_congr {job : Job} (waiting : q.copy.waiting = p.copy.waiting)
    (channels : q.copy.channels = p.copy.channels) : q.hasJob w job ↔ p.hasJob w job := by
  have channel : ∀ c, q.channel c = p.channel c := fun c => by simp only [Part.channel, channels]
  simp only [Part.hasJob, waiting, channel]

/-- Work on another window's record, on the notices, the ports and the arbiter. -/
theorem Part.Apart.of_record (record : q.record w = p.record w) (copy : q.copy = p.copy) : Part.Apart w p q :=
  ⟨fun sv hs => ⟨sv, by rw [Part.service, record]; exact hs, rfl, rfl⟩, fun e he _ _ => by rw [copy]; exact he,
    fun _ => (Part.hasJob_congr (by rw [copy]) (by rw [copy])).mp⟩

theorem Part.Apart.refl (p : Part) : Part.Apart w p p := .of_record rfl rfl

/-- Work on the Copy Engine's jobs. -/
theorem Part.Apart.of_jobs (records : q.records = p.records) (queue : q.copy.queue = p.copy.queue)
    (jobs : ∀ job, q.hasJob w job → p.hasJob w job) : Part.Apart w p q :=
  ⟨fun sv hs => ⟨sv, (Part.service_of_records records w).trans hs, rfl, rfl⟩, fun e he _ _ => by rw [queue]; exact he, jobs⟩

variable (p)

theorem Part.apart_setService {sv sv' : Service} (hs : p.service v = some sv) (retiring : sv'.retiring = sv.retiring)
    (stale : sv'.stale = sv.stale) : Part.Apart w p (p.setService v sv') := by
  refine ⟨fun sv1 hs1 => ?_, fun e he _ _ => he, fun _ => id⟩
  by_cases same : w = v
  · subst same
    rw [hs] at hs1
    cases hs1
    exact ⟨sv', p.service_setService_same w sv', retiring, stale⟩
  · exact ⟨sv1, (p.service_setRecord_ne same _).trans hs1, rfl, rfl⟩

theorem Part.apart_note (x : Port) (v : Win) (k : Notice) : Part.Apart w p (p.note x v k) := .of_record rfl rfl

theorem Part.apart_setRecord (other : v ≠ w) (r : Record) : Part.Apart w p (p.setRecord v r) :=
  .of_record (p.record_setRecord_ne other.symm r) rfl

theorem Part.apart_join (other : v ≠ w) (job : Job) : Part.Apart w p (p.join v job) := by
  refine .of_jobs (p.join_records v job) ?_ fun job' => ?_
  · unfold Part.join
    split <;> rfl
  · unfold Part.join
    split
    · rintro (⟨e, he, own, is⟩ | served)
      · rcases List.mem_append.mp he with old | new
        · exact .inl ⟨e, old, own, is⟩
        · rw [List.mem_singleton.mp new] at own
          exact absurd own other
      · exact .inr served
    · exact id

theorem Part.apart_endJob (v : Win) : Part.Apart w p (p.endJob v) := by
  refine .of_jobs rfl rfl fun job => ?_
  rintro (⟨e, he, own⟩ | ⟨c, cp, served⟩)
  · exact .inl ⟨e, List.mem_of_mem_filter he, own⟩
  · rw [Part.work_endJob, ChannelWork.ended] at served
    split at served
    · cases served
    · exact .inr ⟨c, cp, served⟩

theorem Part.apart_release (other : v ≠ w) : Part.Apart w p (p.release v) := by
  unfold Part.release
  split
  · exact .refl p
  · rename_i sv _
    have noted : Part.Apart w p (if sv.ready.isSome then p.note sv.consumer v .dropped else p) := by
      split
      exacts [p.apart_note _ v _, .refl p]
    have recorded := noted.trans (Part.apart_setRecord _ other ((p.record v).released sv))
    dsimp only
    split
    · exact recorded.trans (Part.apart_note _ _ v _)
    · exact recorded.trans (Part.apart_join _ other _)

theorem Part.apart_completeCatchUp (other : v ≠ w) : Part.Apart w p (p.completeCatchUp v) := by
  unfold Part.completeCatchUp
  dsimp only
  split
  · exact p.apart_endJob v
  · rename_i sv _
    have noted := (p.apart_endJob (w := w) v).trans (Part.apart_note _ sv.geometry.producer v .backReady)
    split
    · exact noted.trans (Part.apart_release _ other)
    · exact noted

theorem Part.apart_checkStandby : Part.Apart w p p.checkStandby := by
  unfold Part.checkStandby
  split
  · exact .of_record rfl rfl
  · exact .refl p

theorem Part.apart_completeRetire (other : v ≠ w) : Part.Apart w p (p.completeRetire v) := by
  have off : Part.Apart w p (((p.endJob v).dropService v).noteBoth v .retired) :=
    (p.apart_endJob v).trans ((Part.apart_setRecord _ other _).trans (.of_record rfl rfl))
  exact off.trans (Part.apart_checkStandby _)

theorem Part.apart_setChannelWork {c : Chan} {k : ChannelWork}
    (within : ∀ job cp, k = .serving w job cp → ∃ cp', (p.channel c).work = .serving w job cp') :
    Part.Apart w p (p.setChannelWork c k) := by
  refine .of_jobs rfl rfl fun job => ?_
  rintro (waits | ⟨d, cp, served⟩)
  · exact .inl waits
  · rw [p.work_setChannelWork] at served
    split at served
    · obtain ⟨cp', served'⟩ := within job cp served
      exact .inr ⟨c, cp', served'⟩
    · exact .inr ⟨d, cp, served⟩

theorem Part.apart_selectLine (c : Chan) : Part.Apart w p (p.selectLine c) := by
  unfold Part.selectLine
  split
  · rename_i v job serves
    repeat' split
    · exact p.apart_setChannelWork fun job' cp e => by
        cases e
        exact ⟨none, serves⟩
    · exact .refl p
    · exact .refl p
  · exact .refl p

theorem Part.apart_channelStep (c : Chan) : Part.Apart w p (p.channelStep c) := by
  unfold Part.channelStep
  split
  · rename_i v job serves
    split
    · refine .of_jobs rfl rfl fun job' => ?_
      rintro (⟨e, he, own, is⟩ | ⟨d, cp, served⟩)
      · rcases List.mem_cons.mp he with new | old
        · subst new
          cases own
          cases is
          exact .inr ⟨c, none, serves⟩
        · exact .inl ⟨e, old, own, is⟩
      · have served : ((p.setChannelWork c .idle).channel d).work = .serving w job' cp := served
        rw [p.work_setChannelWork] at served
        split at served
        · cases served
        · exact .inr ⟨d, cp, served⟩
    · exact p.apart_selectLine c
  · exact .refl p

/-! ## The touch copier's side -/

theorem Part.apart_touchTake : Part.Apart w p p.touchTake := by
  unfold Part.touchTake
  repeat' split
  · refine ⟨fun sv hs => ⟨sv, hs, rfl, rfl⟩, fun e he served own => ?_, fun _ => id⟩
    refine List.mem_map.mpr ⟨e, he, ?_⟩
    split
    · obtain ⟨port, window, line, inService, writeEnded⟩ := e
      cases served
      rfl
    · rfl
  · exact .refl p
  · exact .refl p
  · exact .refl p

theorem Part.apart_touchRequest (x : Port) (v : Win) (line : Nat) : Part.Apart w p (p.touchRequest x v line) := by
  unfold Part.touchRequest
  split
  · exact .of_jobs rfl rfl fun _ => id
  · have queued : Part.Apart w p (p.setQueue (p.copy.queue ++ [⟨x, v, line, false, false⟩])) :=
      ⟨fun sv hs => ⟨sv, hs, rfl, rfl⟩, fun e he _ _ => List.mem_append_left _ he, fun _ => id⟩
    exact queued.trans (Part.apart_touchTake _)

theorem Part.apart_makeDeferred (x : Port) : Part.Apart w p (p.makeDeferred x) := by
  have dropped : Part.Apart w p { p with copy := { p.copy with deferred := p.copy.deferred.set x none } } :=
    .of_jobs rfl rfl fun _ => id
  unfold Part.makeDeferred
  repeat' split
  · exact .refl p
  · exact .refl p
  · exact dropped.trans (Part.apart_touchRequest _ _ _ _)
  · exact dropped

/-! ## Tag words of another window -/

theorem Part.apart_flip (other : v ≠ w) (late : Bool) : Part.Apart w p (p.flip v late) := by
  unfold Part.flip
  repeat' split
  · exact .refl p
  · exact .refl p
  · exact (p.apart_setRecord other _).trans (Part.apart_note _ _ _ _)

theorem Part.apart_unpin (other : v ≠ w) : Part.Apart w p (p.unpin v) := by
  have ends : Part.Apart w p (p.endPin v) := by
    unfold Part.endPin
    split
    exacts [.refl p, p.apart_setRecord other _]
  unfold Part.unpin
  repeat' split
  · exact .refl p
  · exact ends.trans (Part.apart_flip _ other true)
  · exact .refl p

theorem Part.promote_jobs (v : Win) (job : Job) (h : (p.promote v).hasJob w job) : p.hasJob w job := by
  unfold Part.promote at h
  split at h
  · exact h
  · rename_i e entry
    split at h
    · exact h
    · rcases h with ⟨x, hx, own, is⟩ | served
      · have placed : ∀ l : List WaitEntry, x ∈ placePromoted { e with promoted := true } l →
            x = { e with promoted := true } ∨ x ∈ l := by
          intro l
          induction l with
          | nil => exact fun hx => .inl (List.mem_singleton.mp hx)
          | cons y rest ih =>
            intro hx
            unfold placePromoted at hx
            split at hx
            · rcases List.mem_cons.mp hx with h | h
              · exact .inr (h ▸ List.mem_cons_self)
              · exact (ih h).imp id (List.mem_cons_of_mem y)
            · exact (List.mem_cons.mp hx)
        rcases placed _ hx with new | old
        · subst new
          exact .inl ⟨e, List.mem_of_find?_eq_some entry, own, is⟩
        · exact .inl ⟨x, List.mem_of_mem_filter old, own, is⟩
      · exact .inr served

theorem Part.apart_explicitRelease (other : v ≠ w) : Part.Apart w p (p.explicitRelease v) := by
  unfold Part.explicitRelease
  repeat' split
  · exact .refl p
  · exact p.apart_release other
  · rename_i sv _ _
    refine (p.apart_setRecord other _).trans (.of_jobs ?_ ?_ fun job => Part.promote_jobs _ v job)
    · unfold Part.promote
      repeat' split
      all_goals rfl
    · unfold Part.promote
      repeat' split
      all_goals rfl

theorem Part.apart_abandon (other : v ≠ w) : Part.Apart w p (p.abandon v) := by
  unfold Part.abandon
  split
  · exact .refl p
  · dsimp only
    split
    · exact p.apart_setRecord other _
    · exact (p.apart_setRecord other _).trans (Part.apart_join _ other _)

theorem Part.apart_controlWrite (other : v ≠ w) (x : Port) (sv : Service) (l : Lanes) (d : Word) :
    Part.Apart w p (p.controlWrite x v sv l d) := by
  unfold Part.controlWrite
  repeat' split
  · exact p.apart_note x v _
  · exact p.apart_explicitRelease other
  · exact p.apart_abandon other
  · exact p.apart_note x v _
  · exact p.apart_unpin other
  · exact p.apart_note x v _

theorem Part.apart_tagWrite (other : v ≠ w) (x : Port) (word : TagWord) (l : Lanes) (d : Word) :
    Part.Apart w p (p.tagWrite x v word l d) := by
  have done : Part.Apart w p (p.completeAccess x none) := .of_record rfl rfl
  unfold Part.tagWrite
  split
  · exact .refl p
  · dsimp only
    split
    · exact done.trans (Part.apart_controlWrite _ other _ _ _ _)
    · exact done.trans (Part.apart_note _ _ _ _)

theorem Part.apart_tagRead (other : v ≠ w) (x : Port) (word : TagWord) : Part.Apart w p (p.tagRead x v word) := by
  unfold Part.tagRead
  split
  · exact .refl p
  · rename_i sv _
    have effect : Part.Apart w p (p.tagReadEffect x v sv word) := by
      unfold Part.tagReadEffect Part.pinBySeq
      repeat' split
      · exact .refl p
      · exact p.apart_setRecord other _
      · exact .refl p
      · exact .refl p
      · exact .of_record rfl rfl
      · exact .refl p
      · exact .refl p
    exact effect.trans (.of_record rfl rfl)

theorem Part.apart_proceed {c : AccessClass} (other : ∀ word, c ≠ .tag w word) (x : Port) (a : Access) :
    Part.Apart w p (p.proceed x a c) := by
  have accessed : ∀ b, Part.Apart w p (p.setAccess x b) := fun _ => .of_record rfl rfl
  unfold Part.proceed
  split
  · exact accessed _
  · exact (accessed _).trans (Part.apart_touchRequest _ _ _ _)
  · exact accessed _
  · rename_i v word
    have apart : v ≠ w := fun same => other word (by rw [same])
    split
    exacts [p.apart_tagWrite apart x _ _ _, p.apart_tagRead apart x _]
  · exact .of_record rfl rfl
  · exact .of_record rfl rfl

theorem Part.apart_grantEffect (x : Port) (a : Access) (m : MemClass) : Part.Apart w p (p.grantEffect x a m) := by
  unfold Part.grantEffect
  repeat' split
  · exact p.apart_note _ _ _
  · rename_i sv hs
    exact p.apart_setService hs rfl rfl
  · exact .refl p
  · exact .refl p

end

end Sys2Proof.Machine
end

section
/-!
STANDBY (R159, R160): every LIVE window retires, the part reaches STANDBY with the last of them, and a write whose touch
copy is under way waits on.
-/

namespace Sys2Proof.Machine

/-! ## A RETIRING window's write that waits on -/

/-- The window goes home with the job RETIRE, its bank 0 stale somewhere, and the touch entry is in the queue. -/
def Part.Home (w : Win) (e : TouchEntry) (p : Part) : Prop :=
  (∃ sv, p.service w = some sv ∧ sv.retiring = true ∧ sv.stale.b0 ≠ 0#64) ∧ (∀ job, p.hasJob w job → job = .retire) ∧
    e ∈ p.copy.queue

section
variable {w : Win} {e : TouchEntry} {p q : Part} {port : Port} {a : Access}

theorem Part.Home.apart (h : p.Home w e) (served : e.inService = true) (own : e.window = w) (apart : Part.Apart w p q) :
    q.Home w e := by
  obtain ⟨⟨sv, hs, ret, stale⟩, jobs, queue⟩ := h
  obtain ⟨sv', hs', ret', stale'⟩ := apart.service sv hs
  exact ⟨⟨sv', hs', ret'.trans ret, by rw [stale']; exact stale⟩, fun job hj => jobs job (apart.jobs job hj),
    apart.queue e queue served own⟩

theorem Part.jobOf_hasJob {job : Job} (h : p.jobOf w = some job) : p.hasJob w job := by
  unfold Part.jobOf at h
  split at h
  · rename_i c job' served
    cases h
    obtain ⟨d, job', cp, found, serves⟩ := Part.servedBy_some_iff (p := p) (w := w) (by rw [served]; nofun)
    cases served.symm.trans found
    exact .inr ⟨_, cp, serves⟩
  · obtain ⟨x, entry, is⟩ := Option.map_eq_some_iff.mp h
    exact .inl ⟨x, List.mem_of_find?_eq_some entry, by simpa using List.find?_some entry, is⟩

/-- The job of a window that goes home is not complete. -/
theorem Part.Home.jobComplete (h : p.Home w e) : p.jobComplete w = false := by
  obtain ⟨⟨sv, hs, -, stale⟩, jobs, -⟩ := h
  cases hj : p.jobOf w with
  | none => simp [Part.jobComplete, hs, hj]
  | some job =>
    have retire := jobs job (Part.jobOf_hasJob hj)
    subst retire
    exact Part.jobComplete_stale hs hj stale

theorem Part.Home.testJob (h : p.Home w e) (served : e.inService = true) (own : e.window = w) (v : Win) :
    (p.testJob v).Home w e := by
  unfold Part.testJob
  split
  · rename_i complete
    have other : v ≠ w := by
      rintro rfl
      rw [h.jobComplete] at complete
      cases complete
    split
    · exact h.apart served own (p.apart_completeCatchUp other)
    · exact h.apart served own (p.apart_completeRetire other)
    · exact h
  · exact h

theorem Part.Home.takeHead (h : p.Home w e) (served : e.inService = true) (own : e.window = w) {c : Chan} {x : WaitEntry}
    {rest : List WaitEntry} (waiting : p.copy.waiting = x :: rest) : (p.takeHead c x rest).Home w e := by
  have taken : Part.Apart w p ((p.setWaiting rest).setChannelWork c (.serving x.window x.job none)) := by
    refine .of_jobs rfl rfl fun job => ?_
    rintro (⟨y, hy, mine⟩ | ⟨d, cp, serves⟩)
    · exact .inl ⟨y, by rw [waiting]; exact List.mem_cons_of_mem x hy, mine⟩
    · rw [(p.setWaiting rest).work_setChannelWork] at serves
      split at serves
      · cases serves
        exact .inl ⟨x, by rw [waiting]; exact List.mem_cons_self, rfl, rfl⟩
      · exact .inr ⟨d, cp, serves⟩
  have home := h.apart served own taken
  unfold Part.takeHead
  dsimp only
  split
  · exact home.testJob served own x.window
  · exact home.apart served own (Part.apart_selectLine _ c)

/-- Only a LIVE window's tag words answer (R98). -/
theorem Part.live_of_tag {x : Port} {addr : Addr} {write : Bool} {v : Win} {word : TagWord}
    (cls : p.classify x addr write = .tag v word) : ∃ sv, p.service v = some sv ∧ sv.retiring = false := by
  unfold Part.classify at cls
  split at cls
  · cases cls
  · split at cls
    · cases cls
    · split at cls
      · cases cls
      · rename_i sv hs
        split at cls
        · unfold classifyLogical at cls
          dsimp only at cls
          split at cls
          · cases cls
          · rename_i live
            split at cls
            · cases cls
            · split at cls
              · cases cls
                exact ⟨sv, hs, by simpa using live⟩
              · split at cls
                · split at cls <;> cases cls
                · split at cls
                  · cases cls
                  · split at cls <;> cases cls
        · split at cls <;> cases cls

/-- The held write and its touch entry, of a window that goes home. -/
def Part.WaitsHome (port : Port) (a : Access) (w : Win) (e : TouchEntry) (p : Part) : Prop :=
  p.accessOf port = some a ∧ p.Home w e

theorem Part.WaitsHome.keeps (h : p.WaitsHome port a w e) (served : e.inService = true) (own : e.window = w)
    (ports : q.ports = p.ports) (apart : Part.Apart w p q) : q.WaitsHome port a w e :=
  ⟨by rw [Part.accessOf, ports]; exact h.1, h.2.apart served own apart⟩

theorem Part.WaitsHome.keepsBut {x : Port} (h : p.WaitsHome port a w e) (served : e.inService = true) (own : e.window = w)
    (other : x ≠ port) (keeps : Part.KeepsBut x p q) (apart : Part.Apart w p q) : q.WaitsHome port a w e :=
  ⟨by rw [Part.accessOf, keeps.ports port other.symm]; exact h.1, h.2.apart served own apart⟩

/-- While its window goes home the write's touch entry holds it, so settling leaves it where it is (R90). -/
theorem Part.settles_waitsHome {line n : Nat} (stalled : a.phase = .stalled (.touchWait w line) n)
    (served : e.inService = true) (standing : e.writeEnded = false) (mine : e.port = port) (own : e.window = w)
    (sameLine : e.line = line) :
    Part.Settles (Part.WaitsHome port a w e) (fun x => x ≠ port) (fun c => ∀ word, c ≠ .tag w word) where
  arbiter p x h := h.keeps served own rfl (.of_record rfl rfl)
  step p c h := h.keeps served own (p.keeps_channelStep c).ports (p.apart_channelStep c)
  take p c x rest waiting h :=
    ⟨by rw [Part.accessOf, (p.keeps_takeHead c x rest).ports]; exact h.1, h.2.takeHead served own waiting⟩
  touch p h := h.keeps served own p.keeps_touchTake.ports p.apart_touchTake
  deferred p x h := h.keeps served own (p.keeps_makeDeferred x).ports (p.apart_makeDeferred x)
  proceed p x b c other cls h := h.keepsBut served own other (p.keepsBut_proceed x b c) (p.apart_proceed cls x b)
  request p x b other h := h.keepsBut served own other (p.keepsBut_setAccess x b) (.of_record rfl rfl)
  effect p x b m h := by
    have ports : (p.grantEffect x b m).ports = p.ports := by
      unfold Part.grantEffect
      repeat' split
      all_goals rfl
    exact h.keeps served own ports (p.apart_grantEffect x b m)
  moving p x b h acc goes := by
    rintro rfl
    obtain ⟨access, ⟨sv, hs, ret, -⟩, -, queue⟩ := h
    cases access.symm.trans acc
    rcases goes with ⟨m, requests⟩ | ⟨st, k, held, ended⟩
    · rw [stalled] at requests
      cases requests
    · rw [stalled] at held
      cases held
      have serves : p.touchServes x w line = true := by
        refine List.any_eq_true.mpr ⟨e, queue, ?_⟩
        simp [served, standing, mine, own, sameLine]
      simp [Part.stallEnded, hs, ret, serves] at ended
  class_ p x addr write h := by
    obtain ⟨-, ⟨sv, hs, ret, -⟩, -⟩ := h
    intro word cls
    obtain ⟨sv', hs', live⟩ := Part.live_of_tag cls
    cases hs.symm.trans hs'
    rw [ret] at live
    cases live

end

/-! ## The retire of every LIVE window -/

section
variable {w v : Win} {e : TouchEntry} {p : Part} {port : Port} {a : Access}

theorem ChannelWork.serving_drained {k : ChannelWork} {job : Job} {cp : Option LineCopy}
    (h : k.drained v = .serving w job cp) : k = .serving w job cp := by
  match k with
  | .idle => exact h
  | .draining u c => exact h
  | .serving u job' none =>
    simp only [ChannelWork.drained] at h
    split at h
    · cases h
    · exact h
  | .serving u job' (some c) =>
    simp only [ChannelWork.drained] at h
    split at h
    · cases h
    · exact h

theorem ChannelWork.serving_converted {k : ChannelWork} {job : Job} {cp : Option LineCopy}
    (h : k.converted v = .serving w job cp) : (v = w ∧ job = .retire) ∨ k = .serving w job cp := by
  match k with
  | .idle => exact .inr h
  | .draining u c => exact .inr h
  | .serving u job' c =>
    simp only [ChannelWork.converted] at h
    split at h
    · rename_i same
      cases h
      exact .inl ⟨same.symm, rfl⟩
    · exact .inr h

/-- A window that retires has the job RETIRE alone; another window's jobs stay (R70, R93). -/
theorem Part.hasJob_convertToRetire {job : Job} (h : (p.convertToRetire v).hasJob w job) :
    (v = w ∧ job = .retire) ∨ (v ≠ w ∧ p.hasJob w job) := by
  by_cases none : p.copyStatus v = .none
  · rw [Part.convertToRetire_joins none] at h
    by_cases same : v = w
    · subst same
      have noPlace := Part.copyStatus_none_iff.mp none
      rcases h with ⟨x, hx, own, is⟩ | ⟨c, cp, serves⟩
      · rcases List.mem_append.mp hx with old | new
        · exact absurd (.inl (List.mem_map.mpr ⟨x, old, own⟩)) noPlace
        · rw [List.mem_singleton.mp new] at is
          exact .inl ⟨rfl, is.symm⟩
      · exact absurd (.inr ⟨c, ChannelWork.served?_iff.mpr ⟨job, cp, serves⟩⟩) noPlace
    · refine .inr ⟨same, ?_⟩
      rcases h with ⟨x, hx, own, is⟩ | serves
      · rcases List.mem_append.mp hx with old | new
        · exact .inl ⟨x, old, own, is⟩
        · rw [List.mem_singleton.mp new] at own
          exact absurd own same
      · exact .inr serves
  · rcases h with ⟨x, hx, own, is⟩ | ⟨c, cp, serves⟩
    · rw [Part.convertToRetire, if_neg none] at hx
      obtain ⟨y, hy, from'⟩ := List.mem_map.mp hx
      split at from'
      · rename_i same
        subst from'
        exact .inl ⟨same.symm.trans own, is.symm⟩
      · rename_i other
        subst from'
        exact .inr ⟨fun e => other (own.trans e.symm), .inl ⟨y, hy, own, is⟩⟩
    · rw [Part.work_converted none] at serves
      by_cases same : v = w
      · rcases ChannelWork.serving_converted serves with ⟨-, is⟩ | old
        · exact .inl ⟨same, is⟩
        · subst same
          rw [old] at serves
          simp only [ChannelWork.converted, if_true] at serves
          cases serves
          exact .inl ⟨rfl, rfl⟩
      · rcases ChannelWork.serving_converted serves with ⟨e, -⟩ | old
        · exact absurd e same
        · exact .inr ⟨same, .inr ⟨c, cp, old⟩⟩

/-- The retire of another window leaves the touch entries of this one. -/
theorem Part.retire_queue {sv : Service} (hs : p.service v = some sv) (other : v ≠ w) (he : e ∈ p.copy.queue)
    (own : e.window = w) : e ∈ (p.retire v).copy.queue := by
  have copy := Part.retireRecord_copy hs
  have kept : ∀ all, e ∈ ((p.retireRecord v).removeTouches v all).copy.queue := fun all => by
    refine List.mem_filter.mpr ⟨by rw [copy]; exact he, ?_⟩
    simp [own, other.symm]
  by_cases upToDate : sv.goingHome.stale.b0 = 0#64
  · rw [Part.retire_off hs upToDate]
    exact kept true
  · rw [Part.retire_home hs upToDate, (Part.convertToRetire_keeps _ v).2.1]
    exact kept false

theorem Part.apart_retire {sv : Service} (hs : p.service v = some sv) (other : v ≠ w) : Part.Apart w p (p.retire v) := by
  refine ⟨fun sv' hs' => ⟨sv', ?_, rfl, rfl⟩, fun e he _ own => Part.retire_queue hs other he own, fun job h => ?_⟩
  · rw [Part.service, (p.untouched_retire other).record]
    exact hs'
  · have copy := Part.retireRecord_copy hs
    have recorded : ∀ all, ((p.retireRecord v).removeTouches v all).hasJob w job → p.hasJob w job := fun all =>
      (Part.hasJob_congr (by rw [← copy]; rfl) (by rw [← copy]; rfl)).mp
    by_cases upToDate : sv.goingHome.stale.b0 = 0#64
    · rw [Part.retire_off hs upToDate] at h
      refine recorded true ?_
      rcases h with ⟨x, hx, mine⟩ | ⟨c, cp, serves⟩
      · exact .inl ⟨x, List.mem_of_mem_filter hx, mine⟩
      · rw [Part.endsOff_work] at serves
        exact .inr ⟨c, cp, ChannelWork.serving_drained serves⟩
    · rw [Part.retire_home hs upToDate] at h
      rcases Part.hasJob_convertToRetire h with ⟨same, -⟩ | ⟨-, old⟩
      · exact absurd same other
      · exact recorded false old

/-- The window's own retire, with bank 0 stale somewhere: it goes home, and its write waits on. -/
theorem Part.home_retire {sv : Service} (hs : p.service w = some sv)
    (stale : (sv.stale.set sv.back (sv.backStale ||| sv.dirty)).b0 ≠ 0#64) (he : e ∈ p.copy.queue)
    (served : e.inService = true) : (p.retire w).Home w e := by
  have staleSame := sv.goingHome_stale
  have retiring : sv.goingHome.retiring = true := by
    unfold Service.goingHome
    dsimp only
    split <;> rfl
  have stale' : sv.goingHome.stale.b0 ≠ 0#64 := by rw [staleSame]; exact stale
  have service : (p.retireRecord w).service w = some sv.goingHome := by
    rw [Part.service, Part.retireRecord_record hs, Record.showing_service]
  rw [Part.retire_home hs stale']
  refine ⟨⟨sv.goingHome, ?_, retiring, stale'⟩, fun job h => ?_, ?_⟩
  · rw [Part.service_of_records (Part.convertToRetire_records _ w)]
    exact service
  · rcases Part.hasJob_convertToRetire h with ⟨-, is⟩ | ⟨other, -⟩
    · exact is
    · exact absurd rfl other
  · rw [(Part.convertToRetire_keeps _ w).2.1, Part.removeTouches_queue, Part.retireRecord_copy hs]
    exact List.mem_filter.mpr ⟨he, by simp [served]⟩

theorem Part.retireLive_none (h : p.service v = none) : p.retireLive v = p := by
  rw [Part.retireLive, h]

theorem Part.retireLive_live {sv : Service} (hs : p.service v = some sv) (live : sv.retiring = false) :
    p.retireLive v = p.retire v := by
  rw [Part.retireLive, hs]
  dsimp only
  rw [live]
  rfl

theorem Part.retireLive_home {sv : Service} (hs : p.service v = some sv) (ret : sv.retiring = true) :
    p.retireLive v = p := by
  rw [Part.retireLive, hs]
  dsimp only
  rw [ret]
  rfl

theorem Part.retireLive_apart (other : v ≠ w) : Part.Apart w p (p.retireLive v) ∧ (p.retireLive v).record w = p.record w ∧
    (p.retireLive v).ports = p.ports := by
  cases hs : p.service v with
  | none =>
    rw [Part.retireLive_none hs]
    exact ⟨.refl p, rfl, rfl⟩
  | some sv =>
    cases ret : sv.retiring with
    | true =>
      rw [Part.retireLive_home hs ret]
      exact ⟨.refl p, rfl, rfl⟩
    | false =>
      rw [Part.retireLive_live hs ret]
      exact ⟨Part.apart_retire hs other, (p.untouched_retire other).record, (Part.calm_retire hs).ports⟩

/-- The write of a window that has gone home waits on through the retires of the others. -/
theorem Part.WaitsHome.retires (served : e.inService = true) (own : e.window = w) (l : List Win) :
    ∀ {p : Part}, p.WaitsHome port a w e → (l.foldl Part.retireLive p).WaitsHome port a w e := by
  induction l with
  | nil => exact id
  | cons v rest ih =>
    intro p h
    rw [List.foldl_cons]
    refine ih ?_
    by_cases same : v = w
    · subst same
      obtain ⟨sv, hs, ret, -⟩ := h.2.1
      rw [Part.retireLive_home hs ret]
      exact h
    · obtain ⟨apart, -, ports⟩ := Part.retireLive_apart (p := p) same
      exact h.keeps served own ports apart

/-- As every LIVE window retires, the window goes home with its write. -/
theorem Part.waitsHome_retires {sv : Service} (live : sv.retiring = false)
    (stale : (sv.stale.set sv.back (sv.backStale ||| sv.dirty)).b0 ≠ 0#64) (served : e.inService = true)
    (own : e.window = w) (l : List Win) : ∀ {p : Part}, w ∈ l → p.accessOf port = some a → p.service w = some sv →
      e ∈ p.copy.queue → (l.foldl Part.retireLive p).WaitsHome port a w e := by
  induction l with
  | nil => exact fun met => absurd met List.not_mem_nil
  | cons v rest ih =>
    intro p met acc hs he
    rw [List.foldl_cons]
    by_cases same : v = w
    · subst same
      rw [Part.retireLive_live hs live]
      refine Part.WaitsHome.retires served own rest ⟨?_, Part.home_retire hs stale he served⟩
      rw [Part.accessOf, (Part.calm_retire hs).ports]
      exact acc
    · obtain ⟨apart, record, ports⟩ := Part.retireLive_apart (p := p) same
      refine ih ((List.mem_cons.mp met).resolve_left fun e => same e.symm) ?_ ?_ (apart.queue e he served own)
      · rw [Part.accessOf, ports]
        exact acc
      · rw [Part.service, record]
        exact hs

end

/-! ## The obligation -/

theorem exec_standby_given {s : State} (gives : s.frameGives .standby = true) :
    exec .standby s = .next s.frameEnded.takeStandby := congrArg Host.Outcome.next (State.frameEnd_given gives)

theorem State.takeStandby_run {s : State} (h : s.part.opState = .run) :
    s.takeStandby = s.carryOut Part.enterStopping := by
  rw [State.takeStandby, h]

theorem State.takeStandby_notRun {s : State} (h : s.part.opState ≠ .run) : s.takeStandby = s.result .ok := by
  unfold State.takeStandby
  split
  · exact absurd ‹_› h
  · rfl
  · rfl

/-- Every window that STANDBY leaves in service is RETIRING; the part is in STOPPING with one in service, or in STANDBY
with none (R159, R160). -/
theorem Part.enterStopping_outcome (p : Part) : p.enterStopping.live = p.live ∧ p.enterStopping.staging = p.staging ∧
    (∀ w sv, p.enterStopping.service w = some sv → sv.retiring = true) ∧
    ((p.enterStopping.opState = .stopping ∧ ∃ w, p.enterStopping.service w ≠ none) ∨
      (p.enterStopping.opState = .standby ∧ ∀ w, p.enterStopping.service w = none)) := by
  have retired := Part.foldl_retireLive_retiring allWindows { p with opState := .stopping }
  have moves : Part.Moves false { p with opState := .stopping } (allWindows.foldl Part.retireLive { p with opState := .stopping }) :=
    Part.moves_foldl (fun q w => q.moves_retireLive w) allWindows _
  rw [Part.enterStopping_eq]
  generalize allWindows.foldl Part.retireLive { p with opState := .stopping } = f at retired moves ⊢
  have stood : f.opState = .standby ∨ f.opState = .stopping :=
    moves.control.elim (fun c => .inr c.2) fun c => .inl c.2.1
  have use := Part.settles_inUse.settle (f.inUse_checkStandby stood)
  have settled := (f.moves_checkStandby (en := false)).trans f.checkStandby.moves_settle
  generalize f.checkStandby.settle = t at use settled ⊢
  have off : t.opState = .standby → ∀ w, t.service w = none := by
    intro standby w
    rcases settled.control with ⟨-, same⟩ | ⟨-, -, -, allOff⟩
    · rcases moves.control with ⟨-, stopping⟩ | ⟨-, -, -, allOff⟩
      · rw [same, stopping] at standby
        cases standby
      · exact (settled.records w).off (allOff rfl w)
    · exact allOff rfl w
  refine ⟨settled.live.trans moves.live, settled.staging.trans moves.staging, fun w => ?_, ?_⟩
  · exact (settled.records w).retiring (retired w (mem_allWindows w))
  · rcases use with standby | ⟨stopping, w, hw⟩
    · exact .inr ⟨standby, off standby⟩
    · exact .inl ⟨stopping, w, Option.isSome_iff_ne_none.mp hw⟩

/-- Settles O45: the command in each state, what it leaves in service, and the write that waits on. -/
theorem standbyCommand : Obligations.StandbyCommand := by
  unfold Obligations.StandbyCommand
  intro s gives
  rw [exec_standby_given gives]
  have part : s.frameEnded.part = s.part := rfl
  refine ⟨fun notRun => ?_, fun run => ?_, fun h => ?_⟩
  · rw [State.takeStandby_notRun (by rw [part]; exact notRun)]
    rfl
  · rw [State.takeStandby_run (by rw [part]; exact run), State.carryOut_frameEnded]
    obtain ⟨live, staging, retiring, outcome⟩ := s.part.enterStopping_outcome
    refine ⟨_, rfl, live, staging, retiring, outcome, fun q a w sv line n e h => ?_⟩
    obtain ⟨acc, stalled, hs, isLive, stale, he, served, standing, mine, own, sameLine⟩ := h
    have gone := Part.waitsHome_retires isLive stale served own allWindows (p := { s.part with opState := .stopping })
      (mem_allWindows w) acc hs he
    rw [Part.enterStopping_eq]
    generalize allWindows.foldl Part.retireLive { s.part with opState := .stopping } = f at gone ⊢
    have checked : f.checkStandby.WaitsHome q a w e := by
      have ports : f.checkStandby.ports = f.ports := by
        unfold Part.checkStandby
        split <;> rfl
      exact gone.keeps served own ports f.apart_checkStandby
    have settles := Part.settles_waitsHome stalled served standing mine own sameLine
    obtain ⟨access, ⟨sv', hs', -⟩, -, queue⟩ := settles.settle checked
    exact ⟨access, by rw [hs']; rfl, queue⟩
  · obtain ⟨run, off, rest, idle⟩ := h
    intro t stopped
    have fold : allWindows.foldl Part.retireLive { s.part with opState := .stopping } = { s.part with opState := .stopping } := by
      have each : ∀ l : List Win, l.foldl Part.retireLive { s.part with opState := .stopping } = { s.part with opState := .stopping } := by
        intro l
        induction l with
        | nil => rfl
        | cons v rest ih => rw [List.foldl_cons, Part.retireLive_none (p := { s.part with opState := .stopping }) (off v), ih]
      exact each allWindows
    have allOff : ({ s.part with opState := .stopping } : Part).allOff = true := by
      refine List.all_eq_true.mpr fun w _ => ?_
      rw [show ({ s.part with opState := .stopping } : Part).service w = none from off w]
      rfl
    have reached : ({ s.part with opState := .stopping } : Part).checkStandby =
        ({ s.part with opState := .standby, timer := stopped }).noteGlobal .standbyReached := by
      unfold Part.checkStandby
      rw [if_pos ⟨rfl, allOff⟩]
      rfl
    have quiet := Part.settle_quiet (q := ({ s.part with opState := .standby, timer := stopped }).noteGlobal .standbyReached)
      rest idle rfl rfl rfl rfl
    rw [State.takeStandby_run (by rw [part]; exact run), State.carryOut_frameEnded, Part.enterStopping_eq, fold, reached,
      quiet]

end Sys2Proof.Machine
end

section
/-!
The end of a channel's line (04_copy_engine.md R77, R79, R80): the line leaves its target's stale set, and what the other
windows, channels and ports do stands as it stood.
-/

namespace Sys2Proof.Machine

/-! ## Another place for the same channel -/

theorem Part.setChannelWork_setChannelWork (p : Part) (c : Chan) (k k' : ChannelWork) :
    (p.setChannelWork c k).setChannelWork c k' = p.setChannelWork c k' := by
  have twice : ∀ ch ch' : Channel, (p.setChannel c ch).setChannel c ch' = p.setChannel c ch' := fun ch ch' => by
    simp only [Part.setChannel, Vector.set_set]
  have same : (p.setChannelWork c k).channel c = { p.channel c with work := k } := by
    rw [Part.setChannelWork, Part.channel_setChannel_same]
  have outer : (p.setChannelWork c k).setChannelWork c k' =
      (p.setChannelWork c k).setChannel c { (p.setChannelWork c k).channel c with work := k' } := rfl
  rw [outer, same, Part.setChannelWork, twice]
  rfl

/-- Two parts agree on the channels where they agree on their work, their masks and their holding words. -/
theorem Part.channels_ext {p q : Part} (h : ∀ c, q.channel c = p.channel c) : q.copy.channels = p.copy.channels := by
  apply Vector.ext
  intro i hi
  exact h ⟨i, hi⟩

/-- The window's job ends where the one channel serves it and no entry of it waits (R80, R81). -/
theorem Part.endJob_alone {p : Part} {c : Chan} {w : Win} {job : Job} {copy : Option LineCopy}
    (serves : (p.channel c).work = .serving w job copy) (alone : ∀ d, d ≠ c → (p.channel d).work.served? ≠ some w)
    (noEntry : ∀ e ∈ p.copy.waiting, e.window ≠ w) : p.endJob w = p.setChannelWork c .idle := by
  have waiting : p.copy.waiting.filter (fun e => decide (e.window ≠ w)) = p.copy.waiting :=
    List.filter_eq_self.mpr fun e he => by simpa using noEntry e he
  have channels : (p.endJob w).copy.channels = (p.setChannelWork c .idle).copy.channels := by
    refine Part.channels_ext fun d => ?_
    rw [Part.channel_endJob]
    by_cases h : d = c
    · subst h
      rw [Part.setChannelWork, Part.channel_setChannel_same, Channel.ended, serves]
      dsimp only
      rw [if_pos rfl]
    · rw [Part.setChannelWork, Part.channel_setChannel_ne p h]
      have other := alone d h
      unfold Channel.ended
      split
      · rename_i v _ _ hw
        rw [if_neg fun e => other (by rw [hw, e]; rfl)]
      · rfl
  change { p with copy := { p.copy with
    channels := (p.endJob w).copy.channels, waiting := p.copy.waiting.filter (fun e => decide (e.window ≠ w)) } } = _
  rw [channels, waiting]
  rfl

/-! ## Elsewhere -/

/-- The two parts agree on everything that the other windows' channels and stalls look at. -/
structure Part.Elsewhere (w : Win) (p q : Part) : Prop where
  ports : q.ports = p.ports
  service : ∀ v, v ≠ w → q.service v = p.service v
  marks : ∀ v, v ≠ w → q.inCopyLines v = p.inCopyLines v
  serves : ∀ x v l, v ≠ w → q.touchServes x v l = p.touchServes x v l

/-- A channel that serves another window, or with a line, has no more to do than before. -/
theorem Part.Elsewhere.channelHolds {p q : Part} {w : Win} (h : Part.Elsewhere w p q) {d : Chan}
    (same : q.channel d = p.channel d) (apart : ∀ job, (p.channel d).work ≠ .serving w job none)
    (holds : p.channelHolds d = true) : q.channelHolds d = true := by
  refine Part.channelHolds_iff.mpr fun v job serves => ?_
  rw [same] at serves ⊢
  have ne : v ≠ w := fun e => apart job (e ▸ serves)
  obtain ⟨unmasked, within⟩ := Part.channelHolds_iff.mp holds v job serves
  refine ⟨unmasked, fun sv hs l hl => ?_⟩
  rw [h.marks v ne]
  exact within sv (by rw [← h.service v ne]; exact hs) l hl

/-- A stall of another window has its condition as before. -/
theorem Part.Elsewhere.stallEnded {p q : Part} {w : Win} (h : Part.Elsewhere w p q) (x : Port) {st : Stall}
    (other : st.window ≠ w) : q.stallEnded x st = p.stallEnded x st := by
  cases st with
  | retiring v => simp only [Part.stallEnded, h.service v other]
  | releasePending v => simp only [Part.stallEnded, h.service v other]
  | touchWait v l => simp only [Part.stallEnded, h.service v other, h.serves x v l other]

/-- A port holds where the stalls of the window hold. -/
theorem Part.Elsewhere.stallHolds {p q : Part} {w : Win} (h : Part.Elsewhere w p q) {x : Port}
    (holds : p.stallHolds x = true)
    (own : ∀ a st n, p.accessOf x = some a → a.phase = .stalled st n → st.window = w → q.stallEnded x st = false) :
    q.stallHolds x = true := by
  refine Part.stallHolds_iff.mpr fun a st n ha hp => ?_
  have acc : p.accessOf x = some a := by
    rw [← ha]
    simp only [Part.accessOf, h.ports]
  by_cases e : st.window = w
  · exact own a st n acc hp e
  · rw [h.stallEnded x e]
    exact Part.stallHolds_iff.mp holds a st n acc hp

/-- With no touch entry and no deferred request, only the stalls are left to hold. -/
theorem Part.queuesHold_of_empty {p : Part} (queue : p.copy.queue = []) (deferred : p.copy.deferred = ⟨none, none⟩)
    (stalls : ∀ x, p.stallHolds x = true) : p.QueuesHold where
  touch := .inr (by rw [queue]; exact List.forall_mem_nil _)
  deferred x := by
    simp only [Part.deferredHolds, deferred]
    cases x <;> rfl
  stalls := stalls

theorem Part.touch_idle_of_noRequest {p : Part} (touch : p.touchRequests = false) : p.copy.touch.work = .idle := by
  cases hk : p.copy.touch.work with
  | idle => rfl
  | copying w cp => simp [Part.touchRequests, hk, TouchWork.lineCopy?] at touch
  | draining w cp => simp [Part.touchRequests, hk, TouchWork.lineCopy?] at touch

/-- At rest with no entry and the touch copier IDLE, no touch request is deferred (R89). -/
theorem Part.deferred_none {p : Part} (rest : p.atRest = true) (queue : p.copy.queue = [])
    (touch : p.touchRequests = false) : p.copy.deferred = ⟨none, none⟩ := by
  obtain ⟨-, -, queues⟩ := Part.atRest_iff_queues.mp rest
  have none : ∀ x, p.copy.deferred.get x = none := fun x => by
    have holds := queues.deferred x
    simpa [Part.deferredHolds, queue, Part.touchDraining, Part.touch_idle_of_noRequest touch] using holds
  calc p.copy.deferred = ⟨p.copy.deferred.get .a, p.copy.deferred.get .b⟩ := rfl
    _ = ⟨.none, .none⟩ := by rw [none .a, none .b]

/-! ## The line that leaves -/

/-- The service state of a window without the line in a bank's stale set (R77). -/
def Service.lineLeft (sv : Service) (k : Bank) (line : Nat) : Service :=
  { sv with stale := sv.stale.set k (sv.stale.get k &&& ~~~ BitVec.twoPow 64 line) }

/-- The three banks of the window have three bases (R3). -/
def Geometry.basesApart (g : Geometry) : Prop :=
  g.logicalBase ≠ g.bank1Base ∧ g.logicalBase ≠ g.bank2Base ∧ g.bank1Base ≠ g.bank2Base

theorem Geometry.bankAt_base {g : Geometry} (apart : g.basesApart) (k : Bank) : g.bankAt (g.base k) = k := by
  obtain ⟨one, two, three⟩ := apart
  cases k with
  | b0 => simp only [Geometry.bankAt, Geometry.base, if_true]
  | b1 => simp only [Geometry.bankAt, Geometry.base, if_true, if_neg one.symm]
  | b2 => exact (if_neg two.symm).trans (if_neg three.symm)

theorem Geometry.bankAt_of_base {g : Geometry} {base : Addr} {k : Bank} (h : base = g.base k) (apart : g.basesApart) :
    g.bankAt base = k := by
  rw [h, Geometry.bankAt_base apart]

theorem Part.lineLeaves_eq {p : Part} {w : Win} {sv : Service} {cp : LineCopy} {k : Bank} (hs : p.service w = some sv)
    (target : sv.geometry.bankAt cp.target = k) : p.lineLeaves w cp = p.setService w (sv.lineLeft k cp.line) := by
  rw [Part.lineLeaves, hs]
  dsimp only
  rw [target]
  rfl

theorem Part.removeLine_none {p : Part} (queue : p.copy.queue = []) (deferred : p.copy.deferred = ⟨none, none⟩)
    (w : Win) (line : Nat) : p.removeLine w line = p := by
  have kept : p.removeLine w line = { p with copy := { p.copy with queue := [], deferred := ⟨none, none⟩ } } := by
    unfold Part.removeLine
    rw [queue, deferred]
    rfl
  rw [kept, ← queue, ← deferred]

theorem Service.stale_lineLeft_same (sv : Service) (k : Bank) (line : Nat) :
    (sv.lineLeft k line).stale.get k = sv.stale.get k &&& ~~~ BitVec.twoPow 64 line :=
  PerBank.get_set_same _ _ _

/-- A line that is another one, or in another bank's set, stays stale. -/
theorem Service.lineIn_lineLeft {sv : Service} {k : Bank} {line l : Nat} (other : l ≠ line) (b : Bank) :
    lineIn ((sv.lineLeft k line).stale.get b) l = lineIn (sv.stale.get b) l := by
  by_cases e : b = k
  · subst e
    rw [Service.stale_lineLeft_same]
    have apart : (BitVec.twoPow 64 line).getLsbD l = false := by
      simp only [BitVec.getLsbD_twoPow, Bool.and_eq_false_imp, decide_eq_true_eq, decide_eq_false_iff_not]
      exact fun _ h => other h.symm
    cases hl : lineIn (sv.stale.get b) l with
    | false => simp only [lineIn] at hl ⊢; rw [BitVec.getLsbD_and, hl, Bool.false_and]
    | true =>
      have lt : l < 64 := lineIn_lt hl
      simp only [lineIn] at hl ⊢
      rw [BitVec.getLsbD_and, hl, BitVec.getLsbD_not, apart]
      simp [lt]
  · unfold Service.lineLeft
    rw [PerBank.get_set_ne _ e]

/-- As a line leaves, only a touch wait for that line can end. -/
theorem Part.stallEnded_lineLeft {p q : Part} {w : Win} {sv : Service} {k : Bank} {line : Nat} {x : Port} {st : Stall}
    (hs : p.service w = some sv) (hs' : q.service w = some (sv.lineLeft k line))
    (others : ∀ v, v ≠ w → q.service v = p.service v)
    (serves : ∀ v l, ¬ (v = w ∧ l = line) → p.touchServes x v l = true → q.touchServes x v l = true)
    (other : st ≠ .touchWait w line) (holds : p.stallEnded x st = false) : q.stallEnded x st = false := by
  by_cases e : st.window = w
  · cases st with
    | retiring v =>
      obtain rfl : v = w := e
      simpa only [Part.stallEnded, hs, hs', Service.lineLeft] using holds
    | releasePending v =>
      obtain rfl : v = w := e
      simpa only [Part.stallEnded, hs, hs', Service.lineLeft] using holds
    | touchWait v l =>
      obtain rfl : v = w := e
      have ne : l ≠ line := fun h => other (by rw [h])
      have stays := Service.lineIn_lineLeft (sv := sv) (k := k) ne sv.back
      simp only [Part.stallEnded, hs, hs'] at holds ⊢
      have ret : (sv.lineLeft k line).retiring = sv.retiring := rfl
      rw [ret]
      split at holds
      case isTrue retiring =>
        rw [if_pos retiring]
        rw [Bool.not_eq_false'] at holds ⊢
        exact serves v l (fun h => ne h.2) holds
      case isFalse live =>
        rw [if_neg live]
        rw [Bool.not_eq_false'] at holds ⊢
        exact stays.trans holds
  · cases st with
    | retiring v => simpa only [Part.stallEnded, others v e] using holds
    | releasePending v => simpa only [Part.stallEnded, others v e] using holds
    | touchWait v l =>
      simp only [Part.stallEnded, others v e] at holds ⊢
      cases hv : p.service v with
      | none => rw [hv] at holds; cases holds
      | some sv' =>
        simp only [hv] at holds ⊢
        split at holds
        case isTrue retiring =>
          rw [if_pos retiring]
          rw [Bool.not_eq_false'] at holds ⊢
          exact serves v l (fun h => e h.1) holds
        case isFalse live =>
          rw [if_neg live]
          exact holds

/-! ## A channel's line end -/

/-- The channel has ended its line: its window's service state is `sv`, and it serves without a line. -/
def Part.lineOver (p : Part) (c : Chan) (w : Win) (job : Job) (sv : Service) : Part :=
  (p.setService w sv).setChannelWork c (.serving w job none)

/-- The line end of a serving channel, with no touch entry in the queue (R77). -/
theorem Part.channelLineEnd_eq {p : Part} {c : Chan} {w : Win} {job : Job} {sv : Service} {cp : LineCopy} {k : Bank}
    (work : (p.channel c).work = .serving w job (some cp)) (hs : p.service w = some sv)
    (target : sv.geometry.bankAt cp.target = k) (queue : p.copy.queue = []) (deferred : p.copy.deferred = ⟨none, none⟩) :
    p.channelLineEnd c = (p.lineOver c w job (sv.lineLeft k cp.line)).testJob w := by
  have leaves : (p.setChannelWork c (.serving w job none)).lineLeaves w cp = p.lineOver c w job (sv.lineLeft k cp.line) :=
    Part.lineLeaves_eq (p := p.setChannelWork c (.serving w job none)) hs target
  rw [Part.channelLineEnd, work]
  dsimp only
  rw [leaves, Part.removeLine_none (p := p.lineOver c w job (sv.lineLeft k cp.line)) queue deferred]

section
variable {p : Part} {c : Chan} {w : Win} {job : Job} {sv : Service}

theorem Part.work_lineOver (p : Part) (c : Chan) (w : Win) (job : Job) (sv : Service) (d : Chan) :
    ((p.lineOver c w job sv).channel d).work = if d = c then .serving w job none else (p.channel d).work :=
  (p.setService w sv).work_setChannelWork c d _

theorem Part.masked_lineOver (p : Part) (c : Chan) (w : Win) (job : Job) (sv : Service) (d : Chan) :
    ((p.lineOver c w job sv).channel d).masked = (p.channel d).masked :=
  (p.setService w sv).masked_setChannelWork c d _

theorem Part.service_lineOver (p : Part) (c : Chan) (w : Win) (job : Job) (sv : Service) :
    (p.lineOver c w job sv).service w = some sv :=
  p.service_setService_same w sv

/-- No line of the window is in copy after the line end of the one channel that serves it. -/
theorem Part.inCopyLines_lineOver (alone : ∀ d, d ≠ c → (p.channel d).work.served? ≠ some w)
    (touch : p.copy.touch.work.mark w = noLines) : (p.lineOver c w job sv).inCopyLines w = noLines := by
  refine eq_noLines_iff.mpr fun l => Bool.eq_false_iff.mpr fun marked => ?_
  rcases Part.lineIn_inCopyLines.mp marked with ⟨d, hd⟩ | ht
  · rw [p.work_lineOver] at hd
    split at hd
    · rw [ChannelWork.mark_of_noLine rfl, lineIn_noLines] at hd
      cases hd
    · obtain ⟨job', cp, serves, -⟩ := ChannelWork.lineIn_mark.mp hd
      exact alone d ‹_› (ChannelWork.served?_iff.mpr ⟨job', some cp, serves⟩)
  · have unmarked : (p.lineOver c w job sv).copy.touch.work.mark w = noLines := touch
    rw [unmarked, lineIn_noLines] at ht
    cases ht

/-- The marks of the other windows are not the channel's. -/
theorem ChannelWork.mark_serving_ne {v w : Win} (h : v ≠ w) (job : Job) (copy : Option LineCopy) :
    (ChannelWork.serving w job copy).mark v = noLines := by
  cases copy with
  | none => rfl
  | some cp => exact if_neg fun e => h e.symm

/-- A channel that served the window goes over to other work for it, or to none: all else stands. -/
theorem Part.elsewhere_setChannelWork {cp : Option LineCopy} (work : (p.channel c).work = .serving w job cp)
    {k : ChannelWork} (unmarked : ∀ v, v ≠ w → k.mark v = noLines) (r : Record) :
    Part.Elsewhere w p ((p.setRecord w r).setChannelWork c k) where
  ports := rfl
  service v hv := p.service_setRecord_ne hv r
  marks v hv := by
    refine Part.inCopyLines_of_work (fun d => ?_) rfl
    rw [(p.setRecord w r).work_setChannelWork]
    split
    case isTrue e => rw [e, work, unmarked v hv, ChannelWork.mark_serving_ne hv]
    case isFalse => rfl
  serves _ _ _ _ := rfl

end

end Sys2Proof.Machine
end

section
/-!
A channel's last word of a line (04_copy_engine.md R77): what stands at its completion, and the two ways a CATCH_UP job
goes on from there (R79, R80).
-/

namespace Sys2Proof.Machine

/-! ## What stands at the last word -/

/-- The channel alone serves the window and writes the last word of a line into bank `k`; nothing else requests the memory
port, no touch entry stands, and no other work can begin. -/
structure Part.EndsLine (p : Part) (c : Chan) (w : Win) (job : Job) (sv : Service) (cp : LineCopy) (k : Bank) : Prop where
  rest : p.atRest = true
  only : p.onlyChannelActive c
  work : (p.channel c).work = .serving w job (some cp)
  service : p.service w = some sv
  queue : p.copy.queue = []
  target : sv.geometry.bankAt cp.target = k
  alone : ∀ d, d ≠ c → (p.channel d).work.served? ≠ some w

theorem ChannelWork.served?_ne {k : ChannelWork} {w : Win} (h : ∀ job cp, k ≠ .serving w job cp) : k.served? ≠ some w :=
  fun served => by
    obtain ⟨job, cp, serves⟩ := ChannelWork.served?_iff.mp served
    exact h job cp serves

namespace Part.EndsLine

section
variable {p : Part} {c : Chan} {w : Win} {job : Job} {sv : Service} {cp : LineCopy} {k : Bank}

theorem deferred (h : p.EndsLine c w job sv cp k) : p.copy.deferred = ⟨none, none⟩ :=
  Part.deferred_none h.rest h.queue h.only.1

/-- The completion of the last word is the test of the job behind the line end. -/
theorem delivered (h : p.EndsLine c w job sv cp k) {m : MemAccess} (own : m.requestor = .channel c)
    (write : m.write = true) (last : cp.word = 15) (word : Word) :
    p.deliver m word = (p.lineOver c w job (sv.lineLeft k cp.line)).testJob w := by
  have has : (p.channel c).work.lineCopy? = some cp := by rw [h.work]; rfl
  rw [Part.deliver_channelEnd own has write last,
    Part.channelLineEnd_eq h.work h.service h.target h.queue h.deferred]

theorem copied (h : p.EndsLine c w job sv cp k) (sv' : Service) : (p.lineOver c w job sv').inCopyLines w = noLines :=
  Part.inCopyLines_lineOver h.alone (Part.touch_mark_of_noRequest h.only.1 w)

theorem serves_lineOver (p : Part) (c : Chan) (w : Win) (job : Job) (sv' : Service) :
    ((p.lineOver c w job sv').channel c).work = .serving w job none :=
  (p.work_lineOver c w job sv' c).trans (if_pos rfl)

theorem alone_lineOver (h : p.EndsLine c w job sv cp k) (sv' : Service) :
    ∀ d, d ≠ c → ((p.lineOver c w job sv').channel d).work.served? ≠ some w := fun d hd => by
  rw [p.work_lineOver, if_neg hd]
  exact h.alone d hd

theorem jobOf (h : p.EndsLine c w job sv cp k) (sv' : Service) : (p.lineOver c w job sv').jobOf w = some job :=
  Part.jobOf_serving (serves_lineOver p c w job sv') (h.alone_lineOver sv')

/-- The job is complete exactly with the target's stale set empty (R80, R81). -/
theorem testJob_behind (h : p.EndsLine c w job sv cp k) {sv' : Service}
    (behind : sv'.stale.get (sv'.jobTarget job) ≠ noLines) :
    (p.lineOver c w job sv').testJob w = p.lineOver c w job sv' := by
  have notComplete := Part.jobComplete_stale (p.service_lineOver c w job sv') (h.jobOf sv') behind
  rw [Part.testJob, notComplete]
  rfl

theorem jobComplete (h : p.EndsLine c w job sv cp k) {sv' : Service}
    (clean : sv'.stale.get (sv'.jobTarget job) = noLines) : (p.lineOver c w job sv').jobComplete w = true := by
  simp only [Part.jobComplete, p.service_lineOver c w job sv', h.jobOf sv', clean, h.copied sv', decide_true,
    Bool.and_self]

theorem testJob_catchUp (h : p.EndsLine c w .catchUp sv cp k) {sv' : Service} (clean : sv'.backStale = noLines) :
    (p.lineOver c w .catchUp sv').testJob w = (p.lineOver c w .catchUp sv').completeCatchUp w := by
  rw [Part.testJob, h.jobComplete clean, h.jobOf sv']
  rfl

theorem testJob_retire (h : p.EndsLine c w .retire sv cp k) {sv' : Service} (clean : sv'.stale.b0 = noLines) :
    (p.lineOver c w .retire sv').testJob w = (p.lineOver c w .retire sv').completeRetire w := by
  rw [Part.testJob, h.jobComplete clean, h.jobOf sv']
  rfl

/-- The window's job ends with the channel IDLE where no entry of the window waits. -/
theorem endJob (h : p.EndsLine c w job sv cp k) (sv' : Service) (noEntry : ∀ e ∈ p.copy.waiting, e.window ≠ w) :
    (p.lineOver c w job sv').endJob w = (p.setService w sv').setChannelWork c .idle := by
  rw [Part.endJob_alone (serves_lineOver p c w job sv') (h.alone_lineOver sv') noEntry, Part.lineOver,
    Part.setChannelWork_setChannelWork]

/-- Whatever becomes of the window's record and of the channel, the other channels have no more to do. -/
theorem others (h : p.EndsLine c w job sv cp k) (r : Record) {work : ChannelWork}
    (unmarked : ∀ v, v ≠ w → work.mark v = noLines) {d : Chan} (hd : d ≠ c) :
    ((p.setRecord w r).setChannelWork c work).channelHolds d = true := by
  obtain ⟨holds, -, -⟩ := Part.atRest_iff_queues.mp h.rest
  refine (Part.elsewhere_setChannelWork h.work unmarked r).channelHolds ?_ (fun job' serves => h.alone d hd ?_) (holds d)
  · exact Part.channel_setChannel_ne (p.setRecord w r) hd _
  · rw [serves]
    rfl

/-- The stalls hold as the line leaves, where no access waits for it. -/
theorem stalls (h : p.EndsLine c w job sv cp k)
    (unheld : ∀ x a n, p.accessOf x = some a → a.phase ≠ .stalled (.touchWait w cp.line) n) (work : ChannelWork)
    (x : Port) :
    ((p.setService w (sv.lineLeft k cp.line)).setChannelWork c work).stallHolds x = true := by
  obtain ⟨-, -, queues⟩ := Part.atRest_iff_queues.mp h.rest
  refine Part.stallHolds_iff.mpr fun a st n ha hp => ?_
  refine Part.stallEnded_lineLeft h.service (p.service_setService_same w _)
    (fun v hv => p.service_setService_ne hv _) (fun _ _ _ => id) (fun e => unheld x a n ha (e ▸ hp)) ?_
  exact Part.stallHolds_iff.mp (queues.stalls x) a st n ha hp

theorem queues (h : p.EndsLine c w job sv cp k)
    (unheld : ∀ x a n, p.accessOf x = some a → a.phase ≠ .stalled (.touchWait w cp.line) n) (work : ChannelWork) :
    ((p.setService w (sv.lineLeft k cp.line)).setChannelWork c work).QueuesHold :=
  Part.queuesHold_of_empty h.queue h.deferred (h.stalls unheld work)

/-- Nothing but the channel can request the memory port. -/
theorem requests (h : p.EndsLine c w job sv cp k) (sv' : Service) :
    (p.lineOver c w job sv').touchRequests = false ∧
      (∀ d, (p.lineOver c w job sv').channelRequests d = false) ∧
      ∀ x, (p.lineOver c w job sv').portRequests x = false := by
  obtain ⟨touch, channels, ports⟩ := h.only
  refine ⟨touch, fun d => ?_, ports⟩
  rw [Part.lineOver, (p.setService w sv').channelRequests_setChannelWork]
  split
  · rfl
  · exact channels d ‹_›

end

end Part.EndsLine

/-! ## A CATCH_UP line -/

/-- The channel selects its next line, which alone requests the memory port: it is granted at once (R79, R139). -/
theorem Part.finishAccess_selects {p q : Part} {m : MemAccess} {word : Word} {c : Chan} {w : Win} {job : Job}
    {sv : Service} {line : Nat} (delivered : p.deliver m word = q) (soft : q.softReset ≠ .draining)
    (others : ∀ d, d ≠ c → q.channelHolds d = true) (jobs : q.freeChannel? = none ∨ q.copy.waiting = [])
    (queues : q.QueuesHold) (serves : (q.channel c).work = .serving w job none)
    (unmasked : (q.channel c).masked = false) (hs : q.service w = some sv)
    (lowest : lowestLine? (lessLines (sv.stale.get (sv.jobTarget job)) (q.inCopyLines w)) = some line)
    (requests : q.touchRequests = false ∧ (∀ d, q.channelRequests d = false) ∧ ∀ x, q.portRequests x = false) :
    p.finishAccess m word = q.portFree.jobTaken c w job sv line := by
  obtain ⟨rest, round⟩ := Part.round_selects others jobs queues serves unmasked hs lowest
  obtain ⟨touch, channels, ports⟩ := requests
  rw [Part.jobTaken_eq]
  unfold Part.finishAccess
  rw [delivered, round, Part.round_rest rest]
  exact Part.offer_begins (p := q.portFree) soft fun _ => ⟨touch, fun d _ => channels d, ports⟩

/-- The next line of the job, granted its first read. -/
theorem Part.jobTaken_lineOver (p : Part) (c : Chan) (w : Win) (job : Job) (sv : Service) (line : Nat) :
    (p.lineOver c w job sv).portFree.jobTaken c w job sv line =
      let cp := sv.startLine (sv.jobSource job) (sv.jobTarget job) line
      { (p.setService w sv).setChannelWork c (.serving w job (some cp)) with
        arbiter := p.arbiter.grantedToChannel c
          (.ofChannel c false (cp.source + BitVec.ofNat 20 (16 * line)) 0#16 p.arbiter.accessTime) } := by
  have place : ∀ k, (p.lineOver c w job sv).portFree.setChannelWork c k =
      ((p.setService w sv).setChannelWork c k).portFree := fun k =>
    congrArg Part.portFree (Part.setChannelWork_setChannelWork _ c _ k)
  unfold Part.jobTaken
  dsimp only
  rw [place, if_neg (by simp [Part.portFree])]
  cases job <;> rfl

/-- Settles O23: the line leaves; the channel goes on with the lowest stale line, or its job is complete. -/
theorem catchUpLineEnds : Obligations.CatchUpLineEnds := by
  unfold Obligations.CatchUpLineEnds
  intro c w sv cp m s access own kind write last soft rest only wf work hs notPending queue waiting target base1 base2
    base3 alone unheld stale p
  have ends : s.part.EndsLine c w .catchUp sv cp sv.back :=
    ⟨rest, only, work, hs, queue, Geometry.bankAt_of_base target ⟨base1, base2, base3⟩,
      fun d hd => ChannelWork.served?_ne (alone d hd)⟩
  have soft' : s.part.softReset ≠ .draining := by rw [soft]; nofun
  have delivered := ends.delivered own write last (s.accessWord m)
  have left : (sv.lineLeft sv.back cp.line).backStale = stale := Service.stale_lineLeft_same _ _ _
  refine ⟨s.accessMem m, State.accessMem_afterWrite wf write, fun line ⟨unmasked, lowest⟩ => ?_, fun clean => ?_⟩
  · intro next
    have behind : (sv.lineLeft sv.back cp.line).backStale ≠ noLines := by
      rw [left]
      exact ne_noLines_of_lowest lowest
    rw [ends.testJob_behind behind] at delivered
    have selects := Part.finishAccess_selects (line := line) delivered soft'
      (fun d hd => ends.others _ (fun _ _ => rfl) hd) (.inr waiting)
      (ends.queues (fun x a n ha => unheld x a n cp.line ha) _)
      (Part.EndsLine.serves_lineOver _ _ _ _ _) ((s.part.masked_lineOver c w _ _ c).trans unmasked)
      (s.part.service_lineOver c w _ _) (by rw [ends.copied, lessLines_noLines]; exact (congrArg _ left).trans lowest)
      (ends.requests _)
    have taken : (s.part.lineOver c w .catchUp (sv.lineLeft sv.back cp.line)).portFree.jobTaken c w .catchUp
        (sv.lineLeft sv.back cp.line) line =
        { p.setChannelWork c (.serving w .catchUp (some next)) with
          arbiter := s.part.arbiter.grantedToChannel c
            (.ofChannel c false (next.source + BitVec.ofNat 20 (16 * line)) 0#16 s.part.arbiter.accessTime) } :=
      Part.jobTaken_lineOver _ _ _ _ _ _
    rw [exec_completion access (.inl kind) soft, selects, taken]
  · have complete : s.part.deliver m (s.accessWord m) =
        (p.setChannelWork c .idle).note sv.geometry.producer w .backReady := by
      rw [delivered, ends.testJob_catchUp (left.trans clean), Part.completeCatchUp,
        ends.endJob _ (by rw [waiting]; exact List.forall_mem_nil _)]
      have after : ((s.part.setService w (sv.lineLeft sv.back cp.line)).setChannelWork c .idle).service w =
          some (sv.lineLeft sv.back cp.line) := s.part.service_setService_same w _
      rw [after]
      dsimp only
      rw [if_neg (by simp [Service.lineLeft, notPending])]
      rfl
    have restIdle : (p.setChannelWork c .idle).atRest = true := by
      refine Part.atRest_iff_queues.mpr ⟨fun d => ?_, .inr waiting,
        ends.queues (fun x a n ha => unheld x a n cp.line ha) _⟩
      by_cases h : d = c
      · subst h
        exact Part.channelHolds_of_idle ((p.work_setChannelWork d d .idle).trans (if_pos rfl))
      · exact ends.others _ (fun _ _ => rfl) h
    rw [exec_completion access (.inl kind) soft,
      Part.finishAccess_of_rest complete (Part.atRest_note restIdle _ _ _)]
    have idle := Part.offer_channelIdle (p := p.note sv.geometry.producer w .backReady) (c := c) only
    have offered : ((p.setChannelWork c .idle).note sv.geometry.producer w .backReady).portFree.offer =
        ((p.setChannelWork c .idle).note sv.geometry.producer w .backReady).portFree := idle
    rw [offered]
    rfl

end Sys2Proof.Machine
end

section
/-!
Masked channels and the jobs (04_copy_engine.md R85, R91): windows given back, and the head of the list taken by a channel
that a command unmasks.
-/

namespace Sys2Proof.Machine

/-! ## Every channel masked -/

/-- The entry with which a channel that serves without a line gives its window back (R85, R91). -/
def ChannelWork.given : ChannelWork → Option WaitEntry
  | .serving w job none => some ⟨w, job, true⟩
  | _ => none

/-- The channel after its window is given back. -/
def Channel.givenBack (ch : Channel) : Channel := { ch with work := if ch.work.given.isSome then .idle else ch.work }

/-- A masked channel's next step, whatever its work. -/
def Part.handsBack (p : Part) (c : Chan) : Part :=
  (p.setChannel c (p.channel c).givenBack).setWaiting ((p.channel c).work.given.toList ++ p.copy.waiting)

theorem ChannelWork.given_none_iff {k : ChannelWork} : k.given = none ↔ ∀ w job, k ≠ .serving w job none := by
  match k with
  | .idle => simp [ChannelWork.given]
  | .draining w cp => simp [ChannelWork.given]
  | .serving w job none => simp [ChannelWork.given]
  | .serving w job (some cp) => simp [ChannelWork.given]

theorem Part.setChannel_self (p : Part) (c : Chan) : p.setChannel c (p.channel c) = p := by
  have same : p.copy.channels.set c.val (p.channel c) c.isLt = p.copy.channels := Vector.set_getElem_self c.isLt
  simp only [Part.setChannel, same]

theorem Part.channelStep_masked {p : Part} {c : Chan} (masked : (p.channel c).masked = true) :
    p.channelStep c = p.handsBack c := by
  by_cases h : ∃ w job, (p.channel c).work = .serving w job none
  · obtain ⟨w, job, serves⟩ := h
    have step : p.channelStep c = p.giveBack c w job := by
      rw [Part.channelStep, serves]
      dsimp only
      rw [if_pos masked]
    rw [step, Part.handsBack, Channel.givenBack, serves]
    rfl
  · have none : (p.channel c).work.given = none :=
      ChannelWork.given_none_iff.mpr fun w job serves => h ⟨w, job, serves⟩
    have step : p.channelStep c = p :=
      Part.channelStep_rest (Part.channelHolds_iff.mpr fun w job serves => absurd ⟨w, job, serves⟩ h)
    have same : (p.channel c).givenBack = p.channel c := by
      rw [Channel.givenBack, none]
      rfl
    rw [step, Part.handsBack, same, none, Part.setChannel_self]
    rfl

theorem Part.channel_handsBack (p : Part) (c d : Chan) :
    (p.handsBack c).channel d = if d = c then (p.channel d).givenBack else p.channel d := by
  change (p.setChannel c (p.channel c).givenBack).channel d = _
  by_cases h : d = c
  · subst h
    rw [Part.channel_setChannel_same, if_pos rfl]
  · rw [Part.channel_setChannel_ne p h, if_neg h]

theorem Part.masked_handsBack (p : Part) (c d : Chan) : ((p.handsBack c).channel d).masked = (p.channel d).masked := by
  rw [Part.channel_handsBack]
  split <;> rfl

theorem Part.waiting_handsBack (p : Part) (c : Chan) :
    (p.handsBack c).copy.waiting = (p.channel c).work.given.toList ++ p.copy.waiting := rfl

/-- The part with other channels and another waiting list. -/
def Part.withJobs (p : Part) (channels : Vector Channel 4) (waiting : List WaitEntry) : Part :=
  { p with copy := { p.copy with channels := channels, waiting := waiting } }

/-- The part in which every channel has handed back, the lower-numbered channel's window first (R85). -/
def Part.allHandBack (p : Part) : Part :=
  p.withJobs (p.copy.channels.map Channel.givenBack)
    (allChannels.filterMap (fun c => (p.channel c).work.given) ++ p.copy.waiting)

theorem Part.handsBack_withJobs {p q : Part} {channels : Vector Channel 4} {waiting : List WaitEntry}
    (h : q = p.withJobs channels waiting) (c : Chan) :
    q.handsBack c = p.withJobs (q.handsBack c).copy.channels (q.handsBack c).copy.waiting := by
  subst h
  rfl

theorem Part.channel_allHandBack (p : Part) (c : Chan) : p.allHandBack.channel c = (p.channel c).givenBack :=
  Vector.getElem_map _ c.isLt

/-- The four channels in turn, from the highest number down. -/
theorem Part.handsBack_all (p : Part) :
    (((p.handsBack 3).handsBack 2).handsBack 1).handsBack 0 = p.allHandBack := by
  have jobs := Part.handsBack_withJobs (Part.handsBack_withJobs (Part.handsBack_withJobs
    (Part.handsBack_withJobs (q := p) rfl 3) 2) 1) 0
  have channels : ((((p.handsBack 3).handsBack 2).handsBack 1).handsBack 0).copy.channels =
      p.allHandBack.copy.channels := by
    refine Part.channels_ext fun c => ?_
    rw [Part.channel_allHandBack]
    simp only [Part.channel_handsBack]
    match c with
    | 0 => rfl
    | 1 => rfl
    | 2 => rfl
    | 3 => rfl
  have cons : ∀ (c : Chan) (l : List Chan), (c :: l).filterMap (fun c => (p.channel c).work.given) =
      (p.channel c).work.given.toList ++ l.filterMap (fun c => (p.channel c).work.given) := fun c l => by
    rw [List.filterMap_cons]
    cases (p.channel c).work.given <;> rfl
  have list : allChannels.filterMap (fun c => (p.channel c).work.given) = (p.channel 0).work.given.toList ++
      ((p.channel 1).work.given.toList ++ ((p.channel 2).work.given.toList ++ (p.channel 3).work.given.toList)) := by
    have all : allChannels = [0, 1, 2, 3] := rfl
    rw [all, cons, cons, cons, cons, List.filterMap_nil, List.append_nil]
  have waiting : ((((p.handsBack 3).handsBack 2).handsBack 1).handsBack 0).copy.waiting =
      allChannels.filterMap (fun c => (p.channel c).work.given) ++ p.copy.waiting := by
    simp only [Part.waiting_handsBack, Part.channel_handsBack, list, List.append_assoc]
    rfl
  rw [jobs, channels, waiting]
  rfl

theorem Part.stepChannels_masked {p : Part} (masked : ∀ c, (p.channel c).masked = true) :
    p.stepChannels = p.allHandBack := by
  have after3 := fun d => (p.masked_handsBack 3 d).trans (masked d)
  have after2 := fun d => ((p.handsBack 3).masked_handsBack 2 d).trans (after3 d)
  have after1 := fun d => (((p.handsBack 3).handsBack 2).masked_handsBack 1 d).trans (after2 d)
  unfold Part.stepChannels
  rw [Part.channelStep_masked (masked 3), Part.channelStep_masked (after3 2), Part.channelStep_masked (after2 1),
    Part.channelStep_masked (after1 0), Part.handsBack_all]

theorem Channel.mark_givenBack (ch : Channel) (w : Win) : ch.givenBack.work.mark w = ch.work.mark w := by
  obtain ⟨work, masked, holding⟩ := ch
  match work with
  | .idle => rfl
  | .draining v cp => rfl
  | .serving v job none => rfl
  | .serving v job (some cp) => rfl

theorem Channel.line_givenBack (ch : Channel) : ch.givenBack.work.lineCopy? = ch.work.lineCopy? := by
  obtain ⟨work, masked, holding⟩ := ch
  match work with
  | .idle => rfl
  | .draining v cp => rfl
  | .serving v job none => rfl
  | .serving v job (some cp) => rfl

theorem Channel.given_givenBack (ch : Channel) (w : Win) (job : Job) : ch.givenBack.work ≠ .serving w job none := by
  obtain ⟨work, masked, holding⟩ := ch
  match work with
  | .idle => nofun
  | .draining v cp => nofun
  | .serving v job none => nofun
  | .serving v job (some cp) => nofun

theorem Part.inCopyLines_allHandBack (p : Part) (w : Win) : p.allHandBack.inCopyLines w = p.inCopyLines w :=
  Part.inCopyLines_of_work (fun c => by rw [Part.channel_allHandBack, Channel.mark_givenBack]) rfl

/-- With every channel masked nothing is left to begin. -/
theorem Part.atRest_allHandBack {p : Part} (queues : p.QueuesHold) (masked : ∀ c, (p.channel c).masked = true) :
    p.allHandBack.atRest = true := by
  refine Part.atRest_iff_queues.mpr ⟨fun c => ?_, .inl ?_, ⟨?_, queues.deferred, fun x => ?_⟩⟩
  · refine Part.channelHolds_iff.mpr fun w job serves => ?_
    rw [Part.channel_allHandBack] at serves
    exact absurd serves (Channel.given_givenBack _ w job)
  · refine Part.freeChannel?_none_iff.mpr fun c _ => ?_
    rw [Part.channel_allHandBack]
    exact masked c
  · refine queues.touch.imp id fun queued e he hs => ?_
    rw [Part.inCopyLines_allHandBack]
    exact queued e he hs
  · refine Part.stallHolds_iff.mpr fun a st n ha hp => ?_
    rw [Part.stallEnded_congr (p := p) (q := p.allHandBack) rfl (fun _ => rfl)]
    exact Part.stallHolds_iff.mp (queues.stalls x) a st n ha hp

theorem Part.noIdleRequest_allHandBack {p : Part} (idle : p.noIdleRequest = true) :
    p.allHandBack.noIdleRequest = true := by
  have same : p.allHandBack.noIdleRequest = p.noIdleRequest := by
    simp only [Part.noIdleRequest, Part.portContended, Part.channel_allHandBack, Channel.line_givenBack]
    rfl
  rw [same]
  exact idle

theorem Part.settle_allMasked {p : Part} (queues : p.QueuesHold) (idle : p.noIdleRequest = true)
    (masked : ∀ c, (p.channel c).masked = true) : p.settle = p.allHandBack := by
  have rest := Part.atRest_allHandBack queues masked
  have idle' := Part.noIdleRequest_allHandBack idle
  have round : p.round = p.allHandBack := Part.round_of_steps (Part.stepChannels_masked masked) rest
  calc p.settle = p.allHandBack.round.offer := by rw [Part.settle, round]
    _ = p.allHandBack.offer := by rw [Part.round_rest rest]
    _ = p.allHandBack := by rw [Part.offer_idle idle']

/-! ## A masked channel's line end -/

/-- A masked channel gives its window back at its line end, and nobody takes it (R91). -/
theorem Part.round_givesBack {p : Part} {c : Chan} {w : Win} {job : Job}
    (others : ∀ d, d ≠ c → p.channelHolds d = true) (serves : (p.channel c).work = .serving w job none)
    (masked : (p.channel c).masked = true) (busy : ∀ d, d ≠ c → (p.channel d).work = .idle → (p.channel d).masked = true)
    (queues : p.QueuesHold) : (p.giveBack c w job).atRest = true ∧ p.round = p.giveBack c w job := by
  have unmarked : ∀ v, (p.channel c).work.mark v = noLines := fun v => by rw [serves]; rfl
  have holds : ∀ d, (p.giveBack c w job).channelHolds d = true := fun d =>
    Part.channelHolds_setWaiting (Part.channelHolds_setIdle unmarked (others d)) _
  have rest : (p.giveBack c w job).atRest = true := by
    refine Part.atRest_iff_queues.mpr ⟨holds, .inl ?_, (queues.setIdle unmarked).setWaiting _⟩
    refine Part.freeChannel?_none_iff.mpr fun d idle => ?_
    change ((p.setChannelWork c .idle).channel d).work = .idle at idle
    change ((p.setChannelWork c .idle).channel d).masked = true
    rw [p.work_setChannelWork] at idle
    rw [p.masked_setChannelWork]
    by_cases same : d = c
    · rw [same]
      exact masked
    · rw [if_neg same] at idle
      exact busy d same idle
  have step : p.channelStep c = p.giveBack c w job := by
    rw [Part.channelStep, serves]
    dsimp only
    rw [if_pos masked]
  have steps : p.stepChannels = p.giveBack c w job := by
    rw [← step]
    exact Part.stepChannels_only others fun d => by rw [step]; exact holds d
  exact ⟨rest, Part.round_of_steps steps rest⟩

/-- What one round makes of the completion is at rest: the memory port is free, and is offered (R139). -/
theorem Part.finishAccess_of_round {p q r : Part} {m : MemAccess} {word : Word} (delivered : p.deliver m word = q)
    (round : q.round = r) (rest : r.atRest = true) : p.finishAccess m word = r.portFree.offer := by
  unfold Part.finishAccess
  rw [delivered, round, Part.round_rest rest]
  rfl

/-- Settles O49: all masks set, one mask and a line end, one mask taken off. -/
theorem masksGiveBackAndTakeJobs : Obligations.MasksGiveBackAndTakeJobs := by
  unfold Obligations.MasksGiveBackAndTakeJobs
  intro s
  refine ⟨fun ⟨gives, rest, idle⟩ => ?allMasked, ?lineEnd, ?unmasked⟩
  case allMasked =>
    intro given
    obtain ⟨-, -, queues⟩ := Part.atRest_iff_queues.mp rest
    have allSet : ∀ c : Chan, (0x0F#8).getLsbD c.val = true := by decide
    have masked : ∀ c, ((s.part.setMasks 0x0F#8).channel c).masked = true := fun c => by
      rw [Part.channel_setMasks]
      exact allSet c
    have work : ∀ c, ((s.part.setMasks 0x0F#8).channel c).work = (s.part.channel c).work := fun c => by
      rw [Part.channel_setMasks]
    have sameGiven : given = fun c => ((s.part.setMasks 0x0F#8).channel c).work.given := funext fun c => by
      rw [work]
      rfl
    have waiting : (s.part.setMasks 0x0F#8).allHandBack.copy.waiting =
        allChannels.filterMap given ++ s.part.copy.waiting := by
      rw [sameGiven]
      rfl
    refine ⟨(s.part.setMasks 0x0F#8).allHandBack.copy.channels, ?_, fun c => ?_⟩
    · rw [exec_setChannels_masks gives (by decide),
        Part.settle_allMasked (queues.setMasks _) (Part.noIdleRequest_setMasks idle _) masked, ← waiting]
      rfl
    · have own := (s.part.setMasks 0x0F#8).channel_allHandBack c
      rw [Channel.givenBack, ← congrFun sameGiven c, work, Part.channel_setMasks, allSet] at own
      exact own
  case lineEnd =>
    rintro c w job sv cp k m ⟨access, own, kind, write, last, soft, rest, only, wf, work, masked, noFree, hs, queue,
      target, base1, base2, base3, alone, unheld⟩
    intro stale behind
    have ends : s.part.EndsLine c w job sv cp k :=
      ⟨rest, only, work, hs, queue, Geometry.bankAt_of_base target ⟨base1, base2, base3⟩,
        fun d hd => ChannelWork.served?_ne (alone d hd)⟩
    have delivered := ends.delivered own write last (s.accessWord m)
    have notComplete : (sv.lineLeft k cp.line).stale.get ((sv.lineLeft k cp.line).jobTarget job) ≠ noLines := by
      cases job <;> exact behind
    rw [ends.testJob_behind notComplete] at delivered
    have busy : ∀ d, d ≠ c → ((s.part.lineOver c w job (sv.lineLeft k cp.line)).channel d).work = .idle →
        ((s.part.lineOver c w job (sv.lineLeft k cp.line)).channel d).masked = true := fun d hd idle => by
      rw [s.part.work_lineOver, if_neg hd] at idle
      exact (s.part.masked_lineOver c w job _ d).trans (Part.freeChannel?_none_iff.mp noFree d idle)
    obtain ⟨rest', round⟩ := Part.round_givesBack (p := s.part.lineOver c w job (sv.lineLeft k cp.line))
      (fun d hd => ends.others _ (fun _ _ => rfl) hd)
      (Part.EndsLine.serves_lineOver s.part c w job (sv.lineLeft k cp.line))
      ((s.part.masked_lineOver c w _ _ c).trans masked) busy (ends.queues unheld _)
    refine ⟨s.accessMem m, State.accessMem_afterWrite wf write, ?_⟩
    intro p
    have place : (s.part.lineOver c w job (sv.lineLeft k cp.line)).giveBack c w job = p :=
      congrArg (fun q : Part => q.setWaiting (⟨w, job, true⟩ :: q.copy.waiting))
        (Part.setChannelWork_setChannelWork _ c _ .idle)
    rw [place] at rest' round
    have offered : p.portFree.offer = p.portFree :=
      Part.offer_channelIdle (c := c) (p := (s.part.setService w (sv.lineLeft k cp.line)).setWaiting
        (⟨w, job, true⟩ :: s.part.copy.waiting)) only
    rw [exec_completion access (.inl kind) soft, Part.finishAccess_of_round delivered round rest', offered]
    rfl
  case unmasked =>
    rintro masks c e rest sv line ⟨gives, fits, atRest, idle, jobsOk, waiting, own, unmasked, others, serving, hs, lowest⟩
    intro channels p
    obtain ⟨holds, -, queues⟩ := Part.atRest_iff_queues.mp atRest
    have jobs := Part.waitingOk_iff.mp jobsOk
    have work : ∀ d, ((s.part.setMasks masks).channel d).work = (s.part.channel d).work := fun d => by
      rw [Part.channel_setMasks]
    have masked : ∀ d, ((s.part.setMasks masks).channel d).masked = masks.getLsbD d.val := fun d => by
      rw [Part.channel_setMasks]
    have busy : ∀ d, d ≠ c → ((s.part.setMasks masks).channel d).work = .idle →
        ((s.part.setMasks masks).channel d).masked = true := fun d hd idle => by
      rw [masked]
      exact others d hd ((work d).symm.trans idle)
    have notServed : ∀ d, ((s.part.setMasks masks).channel d).work.served? ≠ some e.window := fun d served => by
      rw [work] at served
      exact jobs.apart d e.window served (List.mem_map.mpr ⟨e, by rw [waiting]; exact List.mem_cons_self, rfl⟩)
    have takes := Part.settle_takes (p := s.part.setMasks masks) (c := c) (e := e) (l := rest) (sv := sv) (line := line)
      (fun d => Part.channelHolds_setMasks (holds d) (serving d)) (queues.setMasks masks)
      (Part.noIdleRequest_setMasks idle masks)
      (Part.freeChannel?_eq_of_only ((work c).trans own) ((masked c).trans unmasked) busy) waiting hs
      (fun d _ => notServed d) (fun k => .inl (Part.freeChannel?_none_serving busy _ _ _))
      (by rw [Part.inCopyLines_setMasks]; cases he : e.job <;> (rw [he] at lowest; exact lowest))
    rw [exec_setChannels_masks gives fits, takes]
    rfl

end Sys2Proof.Machine
end

section
/-!
The settling of a part that only a held access, or only a free channel, keeps from rest: the access whose stall has ended
is classified anew (02_access_resolution.md R29) and granted, or held under another stall; the channel takes the head of
the waiting list (04_copy_engine.md R78).
-/

namespace Sys2Proof.Machine

/-! ## One access classified anew -/

section
variable {p q r : Part} {x : Port} {a : Access}

theorem Part.reclassify_ended {st : Stall} {n : Nat} (soft : q.softReset ≠ .draining) (acc : q.accessOf x = some a)
    (held : a.phase = .stalled st n) (ended : q.stallEnded x st = true) :
    q.reclassify x = q.proceed x a (q.classify x a.addr a.write) := by
  rw [Part.reclassify, acc]
  dsimp only
  rw [held]
  dsimp only
  rw [if_pos ⟨soft, ended⟩]

/-- The Copy Engine at rest leaves a round to the two ports. -/
theorem Part.round_copyRest (copy : q.copyAtRest = true) : q.round = (q.reclassify .a).reclassify .b := by
  unfold Part.round
  dsimp only
  rw [Part.stepChannels_rest copy, Part.takeJobs_rest copy, Part.touchTake_rest copy, Part.makeDeferred_rest copy,
    Part.makeDeferred_rest copy]

/-- One held access goes on; the other port's holds, and then all is at rest. -/
theorem Part.round_goesOn (copy : q.copyAtRest = true) (other : q.stallHolds x.other = true)
    (goes : q.reclassify x = r) (rest : r.atRest = true) : q.round = r := by
  obtain ⟨-, stalls⟩ := Part.atRest_iff.mp rest
  rw [Part.round_copyRest copy]
  cases x with
  | a => rw [goes, Part.reclassify_rest (stalls .b)]
  | b =>
    have first : q.reclassify .a = q := Part.reclassify_rest other
    rw [first, goes]

theorem Part.copyAtRest_setAccess (copy : q.copyAtRest = true) (x : Port) (b : Access) :
    (q.setAccess x b).copyAtRest = true :=
  Part.copyAtRest_congr (p := q) rfl (fun c => (Part.copyAtRest_iff.mp copy).1 c) copy

theorem Part.stallHolds_setAccess (x : Port) {b : Access}
    (holds : ∀ st n, b.phase = .stalled st n → q.stallEnded x st = false) : (q.setAccess x b).stallHolds x = true := by
  refine Part.stallHolds_iff.mpr fun c st n hc hp => ?_
  rw [Part.accessOf_setAccess, Option.some.injEq] at hc
  subst hc
  rw [Part.stallEnded_congr (p := q) (q := q.setAccess x b) rfl (fun _ => rfl)]
  exact holds st n hp

theorem Part.stallHolds_setAccess_other (b : Access) (other : q.stallHolds x.other = true) :
    (q.setAccess x b).stallHolds x.other = true := by
  refine Part.stallHolds_iff.mpr fun c st n hc hp => ?_
  rw [Part.setAccess_accessOf_other] at hc
  rw [Part.stallEnded_congr (p := q) (q := q.setAccess x b) rfl (fun _ => rfl)]
  exact Part.stallHolds_iff.mp other c st n hc hp

theorem Port.eq_or_other (x y : Port) : y = x ∨ y = x.other := by
  cases x <;> cases y <;> simp [Port.other]

/-- The access goes on as one that holds: the part is at rest. -/
theorem Part.atRest_setAccess (copy : q.copyAtRest = true) (other : q.stallHolds x.other = true) {b : Access}
    (holds : ∀ st n, b.phase = .stalled st n → q.stallEnded x st = false) : (q.setAccess x b).atRest = true := by
  refine Part.atRest_iff.mpr ⟨Part.copyAtRest_setAccess copy x b, fun y => ?_⟩
  rcases Port.eq_or_other x y with rfl | rfl
  · exact Part.stallHolds_setAccess y holds
  · exact Part.stallHolds_setAccess_other b other

/-- The held access now needs memory: it requests the memory port (R29, R138). -/
theorem Part.round_requests {st : Stall} {n : Nat} {m : MemClass} (copy : q.copyAtRest = true)
    (other : q.stallHolds x.other = true) (soft : q.softReset ≠ .draining) (acc : q.accessOf x = some a)
    (held : a.phase = .stalled st n) (ended : q.stallEnded x st = true)
    (cls : q.classify x a.addr a.write = .memory m) :
    (q.setAccess x { a with phase := .requesting m }).atRest = true ∧
      q.round = q.setAccess x { a with phase := .requesting m } := by
  have rest : (q.setAccess x { a with phase := .requesting m }).atRest = true := Part.atRest_setAccess copy other nofun
  refine ⟨rest, Part.round_goesOn copy other ?_ rest⟩
  rw [Part.reclassify_ended soft acc held ended, cls]
  rfl

/-! ## Its grant -/

theorem Part.grantEffect_arbiter (q : Part) (x : Port) (a : Access) (m : MemClass) :
    (q.grantEffect x a m).arbiter = q.arbiter := by
  unfold Part.grantEffect
  repeat' split
  all_goals rfl

theorem Part.setAccess_setAccess (q : Part) (x : Port) (b c : Access) :
    (q.setAccess x b).setAccess x c = q.setAccess x c := by
  cases x <;> rfl

/-- What a grant does to the records and notices does not look at the ports or the arbiter. -/
theorem Part.grantEffect_setAccess (q : Part) (x y : Port) (a b : Access) (phase : Phase) (m : MemClass) :
    (q.setAccess y b).portFree.grantEffect x { a with phase := phase } m =
      ((q.grantEffect x a m).setAccess y b).portFree := by
  cases m with
  | producerWrite w masked =>
    have same : (q.setAccess y b).portFree.service w = q.service w := rfl
    unfold Part.grantEffect
    dsimp only
    rw [same]
    cases q.service w <;> rfl
  | _ => rfl

theorem Arbiter.grantedTo_eq (ar : Arbiter) (x : Port) (m : MemAccess) :
    ar.grantedTo x m =
      { ar with access := some m, lastPort := x, portRun := if ar.portRun < 15 then ar.portRun + 1 else 15 } := by
  have run : min (ar.portRun + 1) 15 = if ar.portRun < 15 then ar.portRun + 1 else 15 := by split <;> omega
  rw [Arbiter.grantedTo, run]

/-- The grant of a request that another request may stand beside (R141). -/
theorem Part.grantPort_requesting (q : Part) (x : Port) (a : Access) (m : MemClass) :
    (q.setAccess x { a with phase := .requesting m }).portFree.grantPort x { a with phase := .requesting m } m =
      { (q.grantEffect x a m).setAccess x { a with phase := .granted m } with
        arbiter := q.arbiter.grantedTo x (q.portAccess x a m) } := by
  have access : (q.setAccess x { a with phase := .requesting m }).portFree.portAccess x
      { a with phase := .requesting m } m =
      q.portAccess x a m := by
    cases m <;> rfl
  have arbiter := q.grantEffect_arbiter x a m
  unfold Part.grantPort
  rw [Part.grantEffect_setAccess, access, Arbiter.grantedTo_eq]
  generalize q.grantEffect x a m = e at arbiter ⊢
  have ports : (e.setAccess x { a with phase := .requesting m }).portFree.setAccess x { a with phase := .granted m } =
      (e.setAccess x { a with phase := .granted m }).portFree :=
    congrArg Part.portFree (e.setAccess_setAccess x _ _)
  have run : (q.setAccess x { a with phase := .requesting m }).portFree.arbiter.portRun = e.arbiter.portRun := by
    rw [arbiter]
    rfl
  dsimp only
  rw [ports, run, ← arbiter]
  rfl

theorem Part.portRequests_requesting {m : MemClass} (acc : p.accessOf x = some a) (phase : a.phase = .requesting m) :
    p.portRequests x = true := by
  rw [Part.portRequests, acc]
  dsimp only
  rw [phase]

/-- No copier requests the memory port, and the other port's request, if it makes one, comes after: it is granted (R139,
R140). -/
theorem Part.offer_goesOn {m : MemClass} (soft : q.softReset ≠ .draining) (touch : q.touchRequests = false)
    (channels : ∀ c, q.channelRequests c = false) (other : q.portRequests x.other = true → q.arbiter.lastPort = x.other)
    (cls : q.classify x a.addr a.write = .memory m) :
    (q.setAccess x { a with phase := .requesting m }).portFree.offer =
      { (q.grantEffect x a m).setAccess x { a with phase := .granted m } with
        arbiter := q.arbiter.grantedTo x (q.portAccess x a m) } := by
  have acc := q.accessOf_setAccess x { a with phase := .requesting m }
  have beside : (q.setAccess x { a with phase := .requesting m }).portRequests x.other = q.portRequests x.other := by
    rw [Part.portRequests, Part.setAccess_accessOf_other]
    rfl
  rw [← Part.grantPort_requesting]
  refine Part.offerIn_chosen rfl soft (Part.choose_port touch (.inl (Part.rotated_none channels))
    (Part.selectedPort?_eq (Part.portRequests_requesting acc rfl) fun h => other (beside.symm.trans h)) acc cls)

/-- The completion whose event ends one stall: the access that it held is granted. -/
theorem Part.finishAccess_goesOn {st : Stall} {n : Nat} {m : MemAccess} {word : Word} {cls : MemClass}
    (delivered : p.deliver m word = q) (copy : q.copyAtRest = true) (other : q.stallHolds x.other = true)
    (soft : q.softReset ≠ .draining) (acc : q.accessOf x = some a) (held : a.phase = .stalled st n)
    (ended : q.stallEnded x st = true) (hc : q.classify x a.addr a.write = .memory cls)
    (touch : q.touchRequests = false) (channels : ∀ c, q.channelRequests c = false)
    (quiet : q.portRequests x.other = false) :
    p.finishAccess m word =
      { (q.grantEffect x a cls).setAccess x { a with phase := .granted cls } with
        arbiter := q.arbiter.grantedTo x (q.portAccess x a cls) } := by
  obtain ⟨rest, round⟩ := Part.round_requests copy other soft acc held ended hc
  rw [Part.finishAccess_of_round delivered round rest, Part.offer_goesOn soft touch channels
    (fun h => by rw [quiet] at h; cases h) hc]

/-! ## Two accesses classified anew -/

theorem Part.setAccess_comm (q : Part) (x : Port) (b c : Access) :
    (q.setAccess x b).setAccess x.other c = (q.setAccess x.other c).setAccess x b := by
  cases x <;> rfl

/-- Both held accesses now need memory: both request (R29, R138). -/
theorem Part.round_bothRequest {b : Access} {st st' : Stall} {n n' : Nat} {m m' : MemClass} (copy : q.copyAtRest = true)
    (soft : q.softReset ≠ .draining) (acc : q.accessOf x = some a) (held : a.phase = .stalled st n)
    (ended : q.stallEnded x st = true) (cls : q.classify x a.addr a.write = .memory m)
    (acc' : q.accessOf x.other = some b) (held' : b.phase = .stalled st' n') (ended' : q.stallEnded x.other st' = true)
    (cls' : q.classify x.other b.addr b.write = .memory m') :
    let r := (q.setAccess x.other { b with phase := .requesting m' }).setAccess x { a with phase := .requesting m }
    r.atRest = true ∧ q.round = r := by
  intro r
  have goes : ∀ {t : Part} {y : Port} {c : Access} {k : MemClass} {st : Stall} {n : Nat}, t.softReset ≠ .draining →
      t.accessOf y = some c → c.phase = .stalled st n → t.stallEnded y st = true →
      t.classify y c.addr c.write = .memory k → t.reclassify y = t.setAccess y { c with phase := .requesting k } :=
    fun soft acc held ended cls => by
      rw [Part.reclassify_ended soft acc held ended, cls]
      rfl
  have copy' := Part.copyAtRest_setAccess copy x.other { b with phase := .requesting m' }
  have own : (q.setAccess x.other { b with phase := .requesting m' }).stallHolds x.other = true :=
    Part.stallHolds_setAccess x.other nofun
  refine ⟨Part.atRest_setAccess copy' own nofun, ?_⟩
  rw [Part.round_copyRest copy]
  cases x with
  | a =>
    rw [goes soft acc held ended cls]
    have still : ∀ c, (q.setAccess .a c).stallEnded .b st' = q.stallEnded .b st' := fun c =>
      Part.stallEnded_congr (p := q) rfl (fun _ => rfl) _ _
    refine (goes (t := q.setAccess .a { a with phase := .requesting m }) (y := .b) (c := b) soft acc' held'
      ((still _).trans ended') cls').trans ?_
    exact q.setAccess_comm .a _ _
  | b =>
    have first : q.reclassify .a = q.setAccess .a { b with phase := .requesting m' } := goes soft acc' held' ended' cls'
    have still : ∀ c, (q.setAccess .a c).stallEnded .b st = q.stallEnded .b st := fun c =>
      Part.stallEnded_congr (p := q) rfl (fun _ => rfl) _ _
    rw [first]
    exact goes (t := q.setAccess .a { b with phase := .requesting m' }) (y := .b) (c := a) soft acc held
      ((still _).trans ended) cls

/-- The completion whose event ends both stalls: the port not granted last is granted, the other requests (R29, R140). -/
theorem Part.finishAccess_bothGoOn {b : Access} {st st' : Stall} {n n' : Nat} {m : MemAccess} {word : Word}
    {k k' : MemClass} (delivered : p.deliver m word = q) (copy : q.copyAtRest = true) (soft : q.softReset ≠ .draining)
    (acc : q.accessOf x = some a) (held : a.phase = .stalled st n) (ended : q.stallEnded x st = true)
    (cls : q.classify x a.addr a.write = .memory k) (acc' : q.accessOf x.other = some b)
    (held' : b.phase = .stalled st' n') (ended' : q.stallEnded x.other st' = true)
    (cls' : q.classify x.other b.addr b.write = .memory k') (touch : q.touchRequests = false)
    (channels : ∀ c, q.channelRequests c = false) (last : q.arbiter.lastPort = x.other) :
    let beside := q.setAccess x.other { b with phase := .requesting k' }
    p.finishAccess m word =
      { (beside.grantEffect x a k).setAccess x { a with phase := .granted k } with
        arbiter := q.arbiter.grantedTo x (beside.portAccess x a k) } := by
  intro beside
  obtain ⟨rest, round⟩ := Part.round_bothRequest copy soft acc held ended cls acc' held' ended' cls'
  rw [Part.finishAccess_of_round delivered round rest]
  exact Part.offer_goesOn (q := beside) soft touch channels (fun _ => last) cls

end

/-! ## One channel that takes the head of the list -/

/-- The completion whose event frees a channel or lets a window join: the channel takes the head, and its request alone
is granted (R78, R139). -/
theorem Part.finishAccess_takes {p q : Part} {m : MemAccess} {word : Word} {c : Chan} {e : WaitEntry}
    {l : List WaitEntry} {sv : Service} {line : Nat} (delivered : p.deliver m word = q)
    (busy : q.arbiter.access.isSome = true) (soft : q.softReset ≠ .draining)
    (holds : ∀ d, q.channelHolds d = true) (queues : q.QueuesHold) (free : q.freeChannel? = some c)
    (waiting : q.copy.waiting = e :: l) (hs : q.service e.window = some sv)
    (alone : ∀ d, d ≠ c → (q.channel d).work.served? ≠ some e.window)
    (last : ∀ k, (q.setChannelWork c (.serving e.window e.job (some k))).freeChannel? = none ∨ l = [])
    (lowest : lowestLine? (lessLines (sv.stale.get (sv.jobTarget e.job)) (q.inCopyLines e.window)) = some line)
    (requests : q.touchRequests = false ∧ (∀ d, q.channelRequests d = false) ∧ ∀ x, q.portRequests x = false) :
    p.finishAccess m word = (q.portFree.setWaiting l).jobTaken c e.window e.job sv line := by
  obtain ⟨rest, round⟩ := Part.round_takes holds queues free waiting hs alone last lowest
  have contended : q.portContended = true := by
    unfold Part.portContended
    rw [busy]
    rfl
  rw [if_pos contended] at round
  obtain ⟨touch, channels, ports⟩ := requests
  rw [Part.finishAccess_of_round delivered round rest, Part.jobTaken_eq]
  exact Part.offer_begins (p := q.portFree.setWaiting l) soft fun _ => ⟨touch, fun d _ => channels d, ports⟩

end Sys2Proof.Machine
end

section
/-!
A pending release, performed at the completion of the CATCH_UP job (03_release_flip_and_pinning.md R53; 04_copy_engine.md
R80).
-/

namespace Sys2Proof.Machine

/-! ## The part behind a job's end -/

/-- A notice that is pending stays pending as it is noted once more (R151). -/
theorem Part.note_pending {p : Part} {x : Port} {w : Win} {k : Notice} (h : p.pending x w k) : p.note x w k = p := by
  have window : (p.notices.get x).window.set w.val (NoticeSet.add (p.notices.get x).window[w] k) w.isLt =
      (p.notices.get x).window := by
    have add : NoticeSet.add (p.notices.get x).window[w] k = (p.notices.get x).window[w] := by
      apply BitVec.eq_of_getLsbD_eq
      intro i _
      rw [NoticeSet.add_getLsbD]
      by_cases e : i = k.bit
      · subst e
        rw [show ((p.notices.get x).window[w]).getLsbD k.bit = true from h]
        rfl
      · rw [decide_eq_false e, Bool.or_false]
    rw [add]
    exact Vector.set_getElem_self w.isLt
  unfold Part.note
  dsimp only
  rw [window, PerPort.set_get]

namespace Part.EndsLine

section
variable {p q : Part} {c : Chan} {w : Win} {job : Job} {sv : Service} {cp : LineCopy} {k : Bank}

/-- Whatever the end of the job makes of the window's record, the parts agree elsewhere. -/
theorem elsewhere (h : p.EndsLine c w job sv cp k) (ports : q.ports = p.ports)
    (copy : q.copy = (p.setChannelWork c .idle).copy) (service : ∀ v, v ≠ w → q.service v = p.service v) :
    Part.Elsewhere w p q where
  ports := ports
  service := service
  marks v hv := by
    have idle := (Part.elsewhere_setChannelWork h.work (k := .idle) (fun _ _ => rfl) (p.record w)).marks v hv
    rw [Part.setRecord_self] at idle
    exact (Part.inCopyLines_congr copy v).trans idle
  serves x v l _ := by simp only [Part.touchServes, copy]; rfl

theorem copyAtRest (h : p.EndsLine c w job sv cp k) (ports : q.ports = p.ports)
    (copy : q.copy = (p.setChannelWork c .idle).copy) (service : ∀ v, v ≠ w → q.service v = p.service v)
    (waiting : p.copy.waiting = []) : q.copyAtRest = true := by
  obtain ⟨holds, -, -⟩ := Part.atRest_iff_queues.mp h.rest
  have channel : ∀ d, q.channel d = (p.setChannelWork c .idle).channel d := fun d => by simp only [Part.channel, copy]
  refine Part.copyAtRest_iff.mpr ⟨fun d => ?_, .inr (by rw [copy]; exact waiting),
    .inr (by rw [copy]; exact h.queue ▸ List.forall_mem_nil _), fun x => ?_⟩
  · by_cases hd : d = c
    · subst hd
      refine Part.channelHolds_of_idle ?_
      rw [channel, p.work_setChannelWork, if_pos rfl]
    · have same : q.channel d = p.channel d := (channel d).trans (Part.channel_setChannel_ne p hd _)
      refine (h.elsewhere ports copy service).channelHolds same (fun job' serves => h.alone d hd ?_) (holds d)
      rw [serves]
      rfl
  · have deferred : q.copy.deferred = ⟨none, none⟩ := by rw [copy]; exact h.deferred
    simp only [Part.deferredHolds, deferred]
    cases x <;> rfl

/-- A port holds whose access no stall of the window holds, or one that stands. -/
theorem stallHolds (h : p.EndsLine c w job sv cp k) (ports : q.ports = p.ports)
    (copy : q.copy = (p.setChannelWork c .idle).copy) (service : ∀ v, v ≠ w → q.service v = p.service v) {x : Port}
    (own : ∀ a st n, p.accessOf x = some a → a.phase = .stalled st n → st.window ≠ w) : q.stallHolds x = true := by
  obtain ⟨-, -, queues⟩ := Part.atRest_iff_queues.mp h.rest
  exact (h.elsewhere ports copy service).stallHolds (queues.stalls x) fun a st n ha hp e => absurd e (own a st n ha hp)

/-- With the channel IDLE, nothing requests the memory port. -/
theorem requests_idle (h : p.EndsLine c w job sv cp k) (ports : q.ports = p.ports)
    (copy : q.copy = (p.setChannelWork c .idle).copy) :
    q.touchRequests = false ∧ (∀ d, q.channelRequests d = false) ∧ ∀ x, q.portRequests x = false := by
  obtain ⟨touch, channels, access⟩ := h.only
  refine ⟨?_, fun d => ?_, fun x => ?_⟩
  · rw [← touch]
    simp only [Part.touchRequests, copy]
    rfl
  · have same : q.channelRequests d = (p.setChannelWork c .idle).channelRequests d := by
      simp only [Part.channelRequests, Part.channel, copy]
    rw [same, p.channelRequests_setChannelWork]
    split
    · rfl
    · exact channels d ‹_›
  · rw [← access x]
    simp only [Part.portRequests, Part.accessOf, ports]

theorem notServed_idle (h : p.EndsLine c w job sv cp k) (copy : q.copy = (p.setChannelWork c .idle).copy) (d : Chan) :
    (q.channel d).work.served? ≠ some w := by
  have same : q.channel d = (p.setChannelWork c .idle).channel d := by simp only [Part.channel, copy]
  rw [same, p.work_setChannelWork]
  split
  · exact nofun
  · exact h.alone d ‹_›

theorem noLines_idle (h : p.EndsLine c w job sv cp k) (copy : q.copy = (p.setChannelWork c .idle).copy) :
    q.inCopyLines w = noLines := by
  refine Part.inCopyLines_none (h.notServed_idle copy) ?_
  rw [copy]
  exact Part.touch_mark_of_noRequest h.only.1 w

/-- The window joins an empty waiting list (R83). -/
theorem joins_idle (h : p.EndsLine c w job sv cp k) (copy : q.copy = (p.setChannelWork c .idle).copy)
    (waiting : q.copy.waiting = []) (job' : Job) : q.join w job' = q.setWaiting [⟨w, job', false⟩] := by
  have noPlace : q.copyStatus w = .none := by
    refine Part.copyStatus_none_iff.mpr ?_
    rintro (listed | ⟨d, served⟩)
    · rw [Part.waitingWindows, waiting] at listed
      cases listed
    · exact h.notServed_idle copy d served
  rw [Part.join, if_pos noPlace, waiting]
  rfl

theorem queues_idle (h : p.EndsLine c w job sv cp k) (copy : q.copy = (p.setChannelWork c .idle).copy)
    (stalls : ∀ x, q.stallHolds x = true) : q.QueuesHold :=
  Part.queuesHold_of_empty (by rw [copy]; exact h.queue) (by rw [copy]; exact h.deferred) stalls

/-- Nothing goes on behind the end of the job: the memory port stays free. -/
theorem finishAccess_idle (h : p.EndsLine c w job sv cp k) {m : MemAccess} {word : Word}
    (delivered : p.deliver m word = q) (ports : q.ports = p.ports)
    (copy : ∃ l, q.copy = ((p.setChannelWork c .idle).setWaiting l).copy) (rest : q.atRest = true) :
    p.finishAccess m word = q.portFree := by
  obtain ⟨l, copy⟩ := copy
  have requests := h.requests_idle (q := q.setWaiting p.copy.waiting) ports (by
    change { q.copy with waiting := p.copy.waiting } = _
    rw [copy]
    rfl)
  obtain ⟨touch, channels, access⟩ := requests
  rw [Part.finishAccess_of_rest delivered rest]
  exact Part.offer_noRequest touch channels (access .a) (access .b)

end

end Part.EndsLine

/-! ## The release -/

/-- The notices of a release that was pending: BACK_READY, and DROPPED where a ready image is found (R51, R53). -/
def Part.caughtUpNoted (p : Part) (w : Win) (sv : Service) : Part :=
  if sv.ready.isSome then (p.note sv.geometry.producer w .backReady).note sv.geometry.producer.other w .dropped
  else p.note sv.geometry.producer w .backReady

theorem Part.caughtUpNoted_pending (p : Part) (w : Win) (sv : Service) :
    (p.caughtUpNoted w sv).pending sv.geometry.producer w .backReady := by
  unfold Part.caughtUpNoted
  split
  · exact Part.pending_note (p.pending_note_same _ _ _) _ _ _
  · exact p.pending_note_same _ _ _

/-- A record after a release into `new` (R49, R50). -/
def Record.releasedInto (r : Record) (sv : Service) (new : Bank) : Record :=
  { r with
    next := r.next + 1#16, dropped := if sv.ready.isSome then saturate r.dropped else r.dropped
    service := some (sv.afterRelease r.next new) }

/-- The part behind the release: the record, the notices and the channel. -/
def Part.releasedIdle (p : Part) (c : Chan) (w : Win) (sv : Service) (new : Bank) : Part :=
  ((p.caughtUpNoted w sv).setRecord w ((p.record w).releasedInto sv new)).setChannelWork c .idle

section
variable {p : Part} {c : Chan} {w : Win} {sv : Service} {new : Bank}

theorem Part.releasedIdle_ports (p : Part) (c : Chan) (w : Win) (sv : Service) (new : Bank) :
    (p.releasedIdle c w sv new).ports = p.ports := by
  unfold Part.releasedIdle Part.caughtUpNoted
  split <;> rfl

theorem Part.releasedIdle_copy (p : Part) (c : Chan) (w : Win) (sv : Service) (new : Bank) :
    (p.releasedIdle c w sv new).copy = (p.setChannelWork c .idle).copy := by
  unfold Part.releasedIdle Part.caughtUpNoted
  split <;> rfl

theorem Part.releasedIdle_settings (p : Part) (c : Chan) (w : Win) (sv : Service) (new : Bank) :
    (p.releasedIdle c w sv new).arbiter = p.arbiter ∧ (p.releasedIdle c w sv new).softReset = p.softReset ∧
      (p.releasedIdle c w sv new).opState = p.opState ∧ (p.releasedIdle c w sv new).live = p.live := by
  unfold Part.releasedIdle Part.caughtUpNoted
  split <;> exact ⟨rfl, rfl, rfl, rfl⟩

theorem Part.service_releasedIdle (p : Part) (c : Chan) (w : Win) (sv : Service) (new : Bank) :
    (p.releasedIdle c w sv new).service w = some (sv.afterRelease (p.record w).next new) :=
  (p.caughtUpNoted w sv).service_setRecord_same w _

theorem Part.service_releasedIdle_ne (p : Part) (c : Chan) {v w : Win} (h : v ≠ w) (sv : Service) (new : Bank) :
    (p.releasedIdle c w sv new).service v = p.service v := by
  refine ((p.caughtUpNoted w sv).service_setRecord_ne h _).trans ?_
  unfold Part.caughtUpNoted
  split <;> rfl

/-- A release as the job's completion performs it, with BACK_READY noted before it (R53). -/
theorem Part.release_idle (hn : sv.newBack = new) :
    ((((p.setService w sv).setChannelWork c .idle).note sv.geometry.producer w .backReady).release w) =
      if sv.gained new = noLines then p.releasedIdle c w sv new else (p.releasedIdle c w sv new).join w .catchUp := by
  generalize he : ((p.setService w sv).setChannelWork c .idle).note sv.geometry.producer w .backReady = e
  have hs : e.service w = some sv := by
    rw [← he]
    exact p.service_setService_same w sv
  have record : e.record w = { p.record w with service := some sv } := by
    rw [← he]
    exact p.record_setService_same w sv
  have released : (if sv.ready.isSome then e.note sv.consumer w .dropped else e).setRecord w ((e.record w).released sv) =
      p.releasedIdle c w sv new := by
    have into : (e.record w).released sv = (p.record w).releasedInto sv new := by
      rw [Record.released_eq _ hn, record]
      rfl
    have overwritten : ∀ t : Part, (t.setService w sv).setRecord w ((p.record w).releasedInto sv new) =
        t.setRecord w ((p.record w).releasedInto sv new) := fun t => t.setRecord_setService w sv _
    rw [into, ← he]
    unfold Part.releasedIdle Part.caughtUpNoted
    generalize (p.record w).releasedInto sv new = r at overwritten ⊢
    split
    · exact overwritten (((p.setChannelWork c .idle).note sv.geometry.producer w .backReady).note
        sv.geometry.producer.other w .dropped)
    · exact overwritten ((p.setChannelWork c .idle).note sv.geometry.producer w .backReady)
  have noted : (p.releasedIdle c w sv new).note sv.geometry.producer w .backReady = p.releasedIdle c w sv new :=
    Part.note_pending (p.caughtUpNoted_pending w sv)
  rw [Part.release_eq hs hn]
  dsimp only
  rw [released, noted]

end

/-- The line that leaves last leaves the back's stale set empty, and the other banks' sets as they were (R49, R77). -/
theorem Service.gained_lineLeft {sv : Service} {line : Nat} (clean : sv.backStale &&& ~~~ BitVec.twoPow 64 line = 0#64)
    (k : Bank) :
    (sv.lineLeft sv.back line).gained k = if k = sv.back then 0#64 else sv.stale.get k ||| sv.dirty := by
  unfold Service.gained
  by_cases h : k = sv.back
  · subst h
    calc _ = (sv.lineLeft sv.back line).stale.get sv.back := if_pos rfl
      _ = 0#64 := (Service.stale_lineLeft_same _ _ _).trans clean
      _ = _ := (if_pos rfl).symm
  · calc _ = (sv.lineLeft sv.back line).stale.get k ||| sv.dirty := if_neg h
      _ = sv.stale.get k ||| sv.dirty := by rw [Service.lineLeft, PerBank.get_set_ne _ h]
      _ = _ := (if_neg h).symm

/-- The completion of the last word performs the release; the window joins where its new back is behind (R50, R53). -/
theorem Part.EndsLine.deliver_release {p : Part} {c : Chan} {w : Win} {sv : Service} {cp : LineCopy} {new : Bank}
    {m : MemAccess} {word : Word} (h : p.EndsLine c w .catchUp sv cp sv.back) (own : m.requestor = .channel c)
    (write : m.write = true) (last : cp.word = 15) (pending : sv.releasePending = true)
    (clean : sv.backStale &&& ~~~ BitVec.twoPow 64 cp.line = 0#64) (waiting : p.copy.waiting = [])
    (hn : (sv.lineLeft sv.back cp.line).newBack = new) :
    p.deliver m word =
      if (sv.lineLeft sv.back cp.line).gained new = noLines then p.releasedIdle c w (sv.lineLeft sv.back cp.line) new
      else (p.releasedIdle c w (sv.lineLeft sv.back cp.line) new).join w .catchUp := by
  have left : (sv.lineLeft sv.back cp.line).backStale = noLines := (Service.stale_lineLeft_same _ _ _).trans clean
  have service : ((p.setService w (sv.lineLeft sv.back cp.line)).setChannelWork c .idle).service w =
      some (sv.lineLeft sv.back cp.line) := p.service_setService_same w _
  have stillPending : (sv.lineLeft sv.back cp.line).releasePending = true := pending
  rw [h.delivered own write last, h.testJob_catchUp left, Part.completeCatchUp,
    h.endJob _ (by rw [waiting]; exact List.forall_mem_nil _), service]
  dsimp only
  rw [if_pos stillPending, Part.release_idle hn]

/-- Settles O24: the release leaves the window caught up, or behind in its new back; the producer's held read, or the
window's new job, goes on. -/
theorem pendingReleasePerformed : Obligations.PendingReleasePerformed := by
  unfold Obligations.PendingReleasePerformed
  intro c w sv cp new m s access own kind write last soft rest only wf work hs live pending roles queue waiting target
    base1 base2 base3 alone clean dropped spare r producer gained after caughtUp noted released free noneHeld
  have ends : s.part.EndsLine c w .catchUp sv cp sv.back :=
    ⟨rest, only, work, hs, queue, Geometry.bankAt_of_base target ⟨base1, base2, base3⟩,
      fun d hd => ChannelWork.served?_ne (alone d hd)⟩
  generalize hsv : sv.lineLeft sv.back cp.line = left
  have newBack : left.newBack = new := by
    rw [← hsv]
    exact Service.newBack_eq roles dropped spare
  have delivered := ends.deliver_release (word := s.accessWord m) own write last pending clean waiting (hsv ▸ newBack)
  rw [hsv] at delivered
  have sameGained : ∀ k, left.gained k = gained k := fun k => hsv ▸ Service.gained_lineLeft clean k
  have sameAfter : left.afterRelease r.next new = after := by
    unfold Service.afterRelease
    rw [sameGained, sameGained, sameGained, ← hsv]
    rfl
  have place : s.part.releasedIdle c w left new = released.setChannelWork c .idle := by
    unfold Part.releasedIdle Record.releasedInto
    rw [sameAfter, ← hsv]
    rfl
  rw [place] at delivered
  have ports : (released.setChannelWork c .idle).ports = s.part.ports := place ▸ s.part.releasedIdle_ports c w left new
  have copy : (released.setChannelWork c .idle).copy = (s.part.setChannelWork c .idle).copy :=
    place ▸ s.part.releasedIdle_copy c w left new
  have settings := s.part.releasedIdle_settings c w left new
  have service : (released.setChannelWork c .idle).service w = some after := by
    rw [← place, ← sameAfter]
    exact s.part.service_releasedIdle c w left new
  have others : ∀ v, v ≠ w → (released.setChannelWork c .idle).service v = s.part.service v := fun v hv => by
    rw [← place]
    exact s.part.service_releasedIdle_ne c hv left new
  rw [place] at settings
  obtain ⟨arbiter, softSame, opState, liveSame⟩ := settings
  have becomes : free (released.setChannelWork c .idle) = (released.setChannelWork c .idle).portFree := by
    rw [Part.portFree, arbiter]
  generalize released.setChannelWork c .idle = q at *
  have copyRest : q.copyAtRest = true := ends.copyAtRest ports copy others waiting
  have holds : ∀ x, noneHeld x → q.stallHolds x = true := fun x h => ends.stallHolds ports copy others h
  have soft' : q.softReset ≠ .draining := by rw [softSame, soft]; nofun
  obtain ⟨touch, channels, access'⟩ := ends.requests_idle ports copy
  refine ⟨s.accessMem m, State.accessMem_afterWrite wf write, ?_⟩
  intro result
  have answers : ∀ t, s.part.finishAccess m (s.accessWord m) = t → exec .memoryAccessCompletion s = .next (result t) :=
    fun t ht => by
      rw [exec_completion access (.inl kind) soft, ht]
  refine ⟨fun ⟨fresh, a, b⟩ => answers _ ?_, fun a n ⟨fresh, acc, held, read, inside, noTag, other⟩ => ?_,
    fun line ⟨lowest, a, b⟩ => ?_⟩
  · have caughtUp : left.gained new = noLines := (sameGained new).trans fresh
    rw [if_pos caughtUp] at delivered
    have rest' : q.atRest = true := Part.atRest_iff.mpr ⟨copyRest, fun x => holds x (by cases x; exacts [a, b])⟩
    rw [becomes]
    exact ends.finishAccess_idle delivered ports ⟨[], by rw [copy, ← waiting]; rfl⟩ rest'
  · intro mr
    have caughtUp : left.gained new = noLines := (sameGained new).trans fresh
    rw [if_pos caughtUp] at delivered
    have acc' : q.accessOf producer = some a := by
      rw [← acc]
      simp only [Part.accessOf, ports]
    have ended : q.stallEnded producer (.releasePending w) = true := by simp only [Part.stallEnded, service]; rfl
    obtain ⟨working, -, within, apart⟩ := inside
    have inside' : q.logicalOf w after a.addr :=
      ⟨by rw [opState]; exact working, service, within,
        fun v sv' hv hsv' => apart v sv' hv ((others v hv).symm.trans hsv')⟩
    have noTag' : q.noTagWord w after a.addr := noTag.imp_left fun h => by
      rw [← h]
      simp only [Part.liveOf, liveSame]
    have cls : q.classify producer a.addr a.write = .memory (.producerRead w) := by
      rw [Part.classify_logical inside', classifyLogical_producer (sv := after) (q := producer) live rfl rfl
        (Part.noTag_none noTag'), read]
      rfl
    have fresh' : after.backStale = noLines := by
      rw [← sameAfter, Service.backStale_afterRelease]
      exact caughtUp
    have address : q.grantAddr a (.producerRead w) =
        sv.geometry.base new + BitVec.ofNat 20 (sv.geometry.offset a.addr) := by
      rw [Part.grantAddr_producerRead service, fresh', lineIn_noLines]
      rfl
    have goes := Part.finishAccess_goesOn delivered copyRest (holds _ other) soft' acc' held ended cls touch channels
      (access' _)
    rw [Part.portAccess_own (m := .producerRead w) nofun, address, arbiter] at goes
    have effect : q.grantEffect producer a (.producerRead w) = q := rfl
    rw [answers _ goes, effect, read, Part.withPort, Part.setAccess, ports]
  · have behind : gained new ≠ noLines := ne_noLines_of_lowest lowest
    have behind' : left.gained new ≠ noLines := fun h => behind ((sameGained new).symm.trans h)
    have empty : q.copy.waiting = [] := by rw [copy]; exact waiting
    rw [if_neg behind', ends.joins_idle copy empty] at delivered
    have isFree : q.freeChannel? = (s.part.setChannelWork c .idle).freeChannel? := Part.freeChannel?_congr copy
    have stalls : ∀ x, q.stallHolds x = true := fun x => holds x (by cases x; exacts [a, b])
    have queues := ends.queues_idle copy stalls
    have channelsHold : ∀ d, q.channelHolds d = true := (Part.copyAtRest_iff.mp copyRest).1
    refine ⟨fun d free' => answers _ ?_, fun none => answers _ ?_⟩
    · have stale : after.stale.get (after.jobTarget .catchUp) = gained new := by
        rw [← sameGained, ← Service.backStale_afterRelease left r.next new, sameAfter]
        rfl
      have takes := Part.finishAccess_takes (e := ⟨w, .catchUp, false⟩) (l := []) (line := line) delivered
        (by change q.arbiter.access.isSome = true; rw [arbiter, access]; rfl) soft'
        (fun d => Part.channelHolds_setWaiting (channelsHold d) _) (queues.setWaiting _) (isFree.trans free') rfl service
        (fun d' _ => ends.notServed_idle copy d') (fun _ => .inr rfl)
        (by rw [Part.inCopyLines_setWaiting, ends.noLines_idle copy, lessLines_noLines, stale]; exact lowest)
        ⟨touch, channels, access'⟩
      have same : (q.setWaiting [⟨w, .catchUp, false⟩]).portFree.setWaiting [] = q.portFree := by
        rw [← empty]
        rfl
      rw [same] at takes
      rw [becomes]
      exact takes
    · have rest' : (q.setWaiting [⟨w, .catchUp, false⟩]).atRest = true :=
        Part.atRest_iff_queues.mpr ⟨fun d => Part.channelHolds_setWaiting (channelsHold d) _, .inl (isFree.trans none),
          queues.setWaiting _⟩
      have stays := ends.finishAccess_idle (word := s.accessWord m) delivered ports
        ⟨[⟨w, .catchUp, false⟩], congrArg (fun e : CopyEngine => { e with waiting := [⟨w, .catchUp, false⟩] }) copy⟩ rest'
      rw [stays, Part.portFree, Part.setWaiting_arbiter, arbiter]

end Sys2Proof.Machine
end

section
/-!
The completion of a RETIRE job (04_copy_engine.md R81; 10_configuration_and_states.md R160): the window is OFF, the part
may reach STANDBY, and the accesses that the retiring window held pass through (02_access_resolution.md R29, R35).
-/

namespace Sys2Proof.Machine

/-! ## The part with the window OFF -/

/-- The part behind a RETIRE job: the window OFF, the channel IDLE, RETIRED noted to both ports (R81). -/
def Part.retiredIdle (p : Part) (c : Chan) (w : Win) : Part :=
  ((p.setRecord w { p.record w with service := none }).setChannelWork c .idle).noteBoth w .retired

/-- The part in STANDBY with its timer stopped, or as it was (R110, R160). -/
def Part.finished (p : Part) (stops : Bool) (t : Timer) : Part :=
  if stops then ({ p with opState := .standby, timer := t }).noteGlobal .standbyReached else p

section
variable {p : Part} {c : Chan} {w : Win}

theorem Part.service_retiredIdle (p : Part) (c : Chan) (w : Win) : (p.retiredIdle c w).service w = none :=
  p.service_setRecord_same w _

theorem Part.service_retiredIdle_ne (p : Part) (c : Chan) {v w : Win} (h : v ≠ w) :
    (p.retiredIdle c w).service v = p.service v :=
  p.service_setRecord_ne h _

theorem Part.finished_same (p : Part) (stops : Bool) (t : Timer) :
    (p.finished stops t).ports = p.ports ∧ (p.finished stops t).copy = p.copy ∧
      (p.finished stops t).records = p.records ∧ (p.finished stops t).arbiter = p.arbiter ∧
      (p.finished stops t).softReset = p.softReset := by
  cases stops <;> exact ⟨rfl, rfl, rfl, rfl, rfl⟩

theorem Part.finished_setAccess (p : Part) (stops : Bool) (t : Timer) (x : Port) (b : Access) :
    (p.finished stops t).setAccess x b = (p.setAccess x b).finished stops t := by
  cases stops <;> rfl

/-- STANDBY is reached as the last window in service becomes OFF in STOPPING (R160). -/
theorem Part.checkStandby_retired {stops : Bool}
    (h : if stops then p.opState = .stopping ∧ ∀ v, v ≠ w → p.service v = none
      else p.opState = .run ∨ ∃ v, v ≠ w ∧ p.service v ≠ none) :
    (p.retiredIdle c w).checkStandby = (p.retiredIdle c w).finished stops p.timer.stop := by
  have opState : (p.retiredIdle c w).opState = p.opState := rfl
  have allOff : (p.retiredIdle c w).allOff = true ↔ ∀ v, v ≠ w → p.service v = none := by
    refine ⟨fun all v hv => ?_, fun all => List.all_eq_true.mpr fun v _ => ?_⟩
    · rw [← p.service_retiredIdle_ne c hv]
      exact Part.allOff_service _ all v
    · rw [Option.isNone_iff_eq_none]
      by_cases hv : v = w
      · subst hv
        exact p.service_retiredIdle c v
      · exact (p.service_retiredIdle_ne c hv).trans (all v hv)
  unfold Part.checkStandby
  cases stops with
  | true =>
    obtain ⟨stopping, all⟩ := h
    rw [if_pos ⟨opState.trans stopping, allOff.mpr all⟩]
    rfl
  | false =>
    rw [if_neg]
    · rfl
    · rintro ⟨stopping, all⟩
      rcases h with run | ⟨v, hv, inService⟩
      · rw [opState, run] at stopping
        cases stopping
      · exact inService (allOff.mp all v hv)

end

/-- The completion of the last word of a RETIRE job (R81). -/
theorem Part.EndsLine.deliver_retired {p : Part} {c : Chan} {w : Win} {sv : Service} {cp : LineCopy} {m : MemAccess}
    {word : Word} (h : p.EndsLine c w .retire sv cp .b0) (own : m.requestor = .channel c) (write : m.write = true)
    (last : cp.word = 15) (clean : sv.stale.b0 &&& ~~~ BitVec.twoPow 64 cp.line = 0#64) (waiting : p.copy.waiting = []) :
    p.deliver m word = (p.retiredIdle c w).checkStandby := by
  have dropped : ((p.setService w (sv.lineLeft .b0 cp.line)).setChannelWork c .idle).dropService w =
      (p.setRecord w { p.record w with service := none }).setChannelWork c .idle := by
    have record : ((p.setService w (sv.lineLeft .b0 cp.line)).setChannelWork c .idle).record w =
        { p.record w with service := some (sv.lineLeft .b0 cp.line) } := p.record_setService_same w _
    rw [Part.dropService, record]
    exact (p.setChannelWork c .idle).setRecord_setService w _ _
  rw [h.delivered own write last, h.testJob_retire clean, Part.completeRetire,
    h.endJob _ (by rw [waiting]; exact List.forall_mem_nil _), dropped]
  rfl

/-! ## The obligation -/

/-- Settles O25: nothing was held, or one access, or two; each passes through. -/
theorem retireCompletes : Obligations.RetireCompletes := by
  unfold Obligations.RetireCompletes
  intro c w sv cp m s access own kind write last soft rest only wf work hs target clean alone waiting queue off t stopped
    lastOne notLast noneHeld held inPhase given
  have ends : s.part.EndsLine c w .retire sv cp .b0 :=
    ⟨rest, only, work, hs, queue, if_pos target, fun d hd => ChannelWork.served?_ne (alone d hd)⟩
  refine ⟨s.accessMem m, State.accessMem_afterWrite wf write, fun stops state => ?_⟩
  intro result
  have delivered := ends.deliver_retired (word := s.accessWord m) own write last clean waiting
  rw [Part.checkStandby_retired (stops := stops) state] at delivered
  obtain ⟨ports, copy, records, arbiter, softSame⟩ := (s.part.retiredIdle c w).finished_same stops s.part.timer.stop
  have commute := (s.part.retiredIdle c w).finished_setAccess stops s.part.timer.stop
  have service : ((s.part.retiredIdle c w).finished stops s.part.timer.stop).service w = none := by
    rw [Part.service_of_records records]
    exact s.part.service_retiredIdle c w
  have others : ∀ v, v ≠ w →
      ((s.part.retiredIdle c w).finished stops s.part.timer.stop).service v = s.part.service v := fun v hv => by
    rw [Part.service_of_records records]
    exact s.part.service_retiredIdle_ne c hv
  have finishes : ∀ {p ar}, s.part.finishAccess m (s.accessWord m) =
      { p.finished stops s.part.timer.stop with arbiter := ar } → exec .memoryAccessCompletion s = .next (result p ar) :=
    fun h => (exec_completion access (.inl kind) soft).trans (congrArg (fun r : Part => Host.Outcome.next
      { (s.onPart r) with mem := s.accessMem m, freeIndex := s.freeIndex + 1 }) h)
  have ports' := ports.trans (show (s.part.retiredIdle c w).ports = s.part.ports from rfl)
  have copy' := copy.trans (show (s.part.retiredIdle c w).copy = (s.part.setChannelWork c .idle).copy from rfl)
  have arbiter' := arbiter.trans (show (s.part.retiredIdle c w).arbiter = s.part.arbiter from rfl)
  generalize hq : (s.part.retiredIdle c w).finished stops s.part.timer.stop = q at *
  have soft' : q.softReset ≠ .draining := by
    rw [softSame]
    exact fun h => by rw [show (s.part.retiredIdle c w).softReset = s.part.softReset from rfl, soft] at h; cases h
  have copyRest : q.copyAtRest = true := ends.copyAtRest ports' copy' others waiting
  have holds : ∀ x, noneHeld x → q.stallHolds x = true := fun x h => ends.stallHolds ports' copy' others h
  obtain ⟨touch, channels, requests⟩ := ends.requests_idle ports' copy'
  have ended : ∀ x, q.stallEnded x (.retiring w) = true := fun x => by simp only [Part.stallEnded, service]
  have acc : ∀ x a, s.part.accessOf x = some a → q.accessOf x = some a := fun x a h => by
    rw [← h]
    simp only [Part.accessOf, ports']
  have passes : ∀ (x : Port) (a : Access), s.part.noOtherHolds w a.addr →
      q.classify x a.addr a.write = .memory .passThrough := fun x a apart =>
    Part.classify_passThrough (.inr fun v sv' hv => by
      by_cases e : v = w
      · rw [e, service] at hv
        cases hv
      · exact apart v sv' e ((others v e).symm.trans hv))
  refine ⟨fun ⟨a, b⟩ => finishes ?_, fun x a ⟨⟨accX, ⟨n, phase⟩, apart⟩, other⟩ => finishes ?_,
    fun x a b ⟨⟨accX, ⟨n, phase⟩, apart⟩, ⟨accY, ⟨k, phaseY⟩, apartY⟩, lastPort⟩ => finishes ?_⟩
  · have rest' : q.atRest = true := Part.atRest_iff.mpr ⟨copyRest, fun x => holds x (by cases x; exacts [a, b])⟩
    have stays := ends.finishAccess_idle delivered ports' ⟨[], by rw [copy', ← waiting]; rfl⟩ rest'
    rw [Part.portFree, arbiter', ← hq] at stays
    exact stays
  · have goes := Part.finishAccess_goesOn delivered copyRest (holds _ other) soft' (acc x a accX) phase (ended x)
      (passes x a apart) touch channels (requests _)
    have effect : q.grantEffect x a .passThrough = q := rfl
    have own' : q.portAccess x a .passThrough = .ofPort x a.write a.addr a.lanes a.data q.arbiter.accessTime := rfl
    rw [effect, own', arbiter', commute] at goes
    exact goes
  · have goes := Part.finishAccess_bothGoOn delivered copyRest soft' (acc x a accX) phase (ended x) (passes x a apart)
      (acc _ b accY) phaseY (ended _) (passes _ b apartY) touch channels (by rw [arbiter']; exact lastPort)
    dsimp only at goes
    have effect : ∀ p : Part, p.grantEffect x a .passThrough = p := fun _ => rfl
    have own' : ∀ p : Part, p.portAccess x a .passThrough =
      .ofPort x a.write a.addr a.lanes a.data p.arbiter.accessTime := fun _ => rfl
    have both : (q.setAccess x.other { b with phase := .requesting .passThrough }).setAccess x
        { a with phase := .granted .passThrough } =
        (inPhase b (.requesting .passThrough) x.other (inPhase a (.granted .passThrough) x off)).finished stops
          s.part.timer.stop := by
      rw [← Part.setAccess_comm, commute, Part.finished_setAccess]
      cases x <;> rfl
    rw [effect, own', both, Part.setAccess_arbiter, arbiter'] at goes
    exact goes

end Sys2Proof.Machine
end

section
/-!
The end of a touch copy (04_copy_engine.md R77, R89, R90): the line leaves, the entry goes, and the held write goes on
(02_access_resolution.md R29, R40).
-/

namespace Sys2Proof.Machine

/-! ## What stands at the last word -/

/-- The touch copier writes the last word of a line into the back for the one entry of the queue, nothing else requests the
memory port, and no other work can begin. -/
structure Part.EndsTouch (p : Part) (q : Port) (w : Win) (sv : Service) (cp : LineCopy) (ended : Bool) : Prop where
  rest : p.atRest = true
  only : p.onlyTouchActive
  work : p.copy.touch.work = .copying w cp
  service : p.service w = some sv
  queue : p.copy.queue = [⟨q, w, cp.line, true, ended⟩]
  deferred : p.copy.deferred = ⟨none, none⟩
  target : sv.geometry.bankAt cp.target = sv.back

/-- The touch copier IDLE, its entry gone, and the window's service state as the line leaves it (R77, R89). -/
def Part.touchOver (p : Part) (w : Win) (sv : Service) : Part :=
  ({ p.withTouch ⟨.idle, p.copy.touch.holding⟩ with
    copy := { (p.withTouch ⟨.idle, p.copy.touch.holding⟩).copy with queue := [] } } : Part).setService w sv

/-- What the touch line end and the end of a job with it leave for the rest of the event: channels that serve the window
without a line have become IDLE. -/
structure Part.AfterTouch (p t : Part) (w : Win) (left : Service) : Prop where
  ports : t.ports = p.ports
  service : t.service w = some left
  others : ∀ v, v ≠ w → t.service v = p.service v
  queue : t.copy.queue = []
  deferred : t.copy.deferred = ⟨none, none⟩
  touch : t.copy.touch.work = .idle
  channels : ∀ d, (t.channel d = p.channel d ∧ ∀ job, (p.channel d).work ≠ .serving w job none) ∨
    ((t.channel d).work = .idle ∧ (p.channel d).work.lineCopy? = none)
  jobs : t.freeChannel? = none ∨ t.copy.waiting = []
  arbiter : t.arbiter = p.arbiter
  softReset : t.softReset = p.softReset
  opState : t.opState = p.opState
  live : t.live = p.live

section
variable {p t : Part} {q : Port} {w : Win} {sv left : Service} {cp : LineCopy} {ended : Bool}

/-- The completion of the last word is the test of the job behind the line end. -/
theorem Part.EndsTouch.delivered (h : p.EndsTouch q w sv cp ended) {m : MemAccess} (own : m.requestor = .touch)
    (write : m.write = true) (last : cp.word = 15) (word : Word) :
    p.deliver m word = (p.touchOver w (sv.lineLeft sv.back cp.line)).testJob w := by
  have has : p.copy.touch.work.lineCopy? = some cp := by rw [h.work]; rfl
  have leaves : (p.setTouchWork .idle).lineLeaves w cp =
      (p.setTouchWork .idle).setService w (sv.lineLeft sv.back cp.line) :=
    Part.lineLeaves_eq (p := p.setTouchWork .idle) h.service h.target
  have queue : ((p.setTouchWork .idle).setService w (sv.lineLeft sv.back cp.line)).copy.queue.filter
      (fun e => !e.inService) = [] := by
    change p.copy.queue.filter _ = []
    rw [h.queue]
    rfl
  rw [Part.deliver_touchEnd own has write last, Part.touchLineEnd, h.work]
  dsimp only
  have clean := Part.removeLine_none
    (p := ((p.setTouchWork .idle).setService w (sv.lineLeft sv.back cp.line)).setQueue [])
    rfl h.deferred w cp.line
  rw [leaves, queue, clean]
  rfl

theorem ChannelWork.mark_idle (w : Win) : ChannelWork.idle.mark w = noLines := rfl

theorem Part.AfterTouch.elsewhere (h : p.EndsTouch q w sv cp ended) (a : Part.AfterTouch p t w left) :
    Part.Elsewhere w p t where
  ports := a.ports
  service := a.others
  marks v hv := by
    refine Part.inCopyLines_of_work (fun d => ?_) ?_
    · rcases a.channels d with ⟨same, -⟩ | ⟨idle, noLine⟩
      · rw [same]
      · rw [idle, ChannelWork.mark_idle, ChannelWork.mark_of_noLine noLine]
    · rw [a.touch, h.work]
      exact (if_neg (Ne.symm hv)).symm
  serves x v l hv := by
    simp only [Part.touchServes, a.queue, h.queue, List.any_cons, List.any_nil, decide_eq_false (Ne.symm hv),
      Bool.and_false, Bool.false_and, Bool.or_false]

theorem Part.AfterTouch.copyAtRest (h : p.EndsTouch q w sv cp ended) (a : Part.AfterTouch p t w left) :
    t.copyAtRest = true := by
  obtain ⟨holds, -, -⟩ := Part.atRest_iff_queues.mp h.rest
  refine Part.copyAtRest_iff.mpr ⟨fun d => ?_, a.jobs, .inr (by rw [a.queue]; exact List.forall_mem_nil _), fun x => ?_⟩
  · rcases a.channels d with ⟨same, apart⟩ | ⟨idle, -⟩
    · exact (a.elsewhere h).channelHolds same apart (holds d)
    · exact Part.channelHolds_of_idle idle
  · simp only [Part.deferredHolds, a.deferred]
    cases x <;> rfl

/-- Every stall but a wait for the line stands as it stood. -/
theorem Part.AfterTouch.stallHolds (h : p.EndsTouch q w sv cp ended)
    (a : Part.AfterTouch p t w (sv.lineLeft sv.back cp.line)) {x : Port}
    (unheld : ∀ b n, p.accessOf x = some b → b.phase ≠ .stalled (.touchWait w cp.line) n) : t.stallHolds x = true := by
  obtain ⟨-, -, queues⟩ := Part.atRest_iff_queues.mp h.rest
  refine Part.stallHolds_iff.mpr fun b st n hb hp => ?_
  have acc : p.accessOf x = some b := by
    rw [← hb]
    simp only [Part.accessOf, a.ports]
  refine Part.stallEnded_lineLeft h.service a.service a.others (fun v l other serves => ?_)
    (fun e => unheld b n acc (e ▸ hp)) (Part.stallHolds_iff.mp (queues.stalls x) b st n acc hp)
  simp only [Part.touchServes, h.queue, List.any_cons, List.any_nil, Bool.or_false, Bool.and_eq_true,
    decide_eq_true_eq] at serves
  obtain ⟨⟨-, hw⟩, hl⟩ := serves
  exact absurd ⟨hw.symm, hl.symm⟩ other

/-- With the touch copier IDLE nothing requests the memory port. -/
theorem Part.AfterTouch.requests (h : p.EndsTouch q w sv cp ended) (a : Part.AfterTouch p t w left) :
    t.touchRequests = false ∧ (∀ d, t.channelRequests d = false) ∧ ∀ x, t.portRequests x = false := by
  obtain ⟨channels, ports⟩ := h.only
  refine ⟨?_, fun d => ?_, fun x => ?_⟩
  · rw [Part.touchRequests, a.touch]
    rfl
  · rcases a.channels d with ⟨same, -⟩ | ⟨idle, -⟩
    · rw [Part.channelRequests, same]
      exact channels d
    · rw [Part.channelRequests, idle]
      rfl
  · rw [← ports x]
    simp only [Part.portRequests, Part.accessOf, a.ports]

theorem Part.AfterTouch.logicalOf (a : Part.AfterTouch p t w (sv.lineLeft sv.back cp.line)) {addr : Addr}
    (inside : p.logicalOf w sv addr) : t.logicalOf w (sv.lineLeft sv.back cp.line) addr := by
  obtain ⟨working, -, within, apart⟩ := inside
  exact ⟨by rw [a.opState]; exact working, a.service, within,
    fun v sv' hv hs => apart v sv' hv ((a.others v hv).symm.trans hs)⟩

theorem Service.lineIn_left_own (sv : Service) (k : Bank) (line : Nat) :
    lineIn ((sv.lineLeft k line).stale.get k) line = false := by
  rw [Service.stale_lineLeft_same]
  by_cases lt : line < 64
  · simp [lineIn, lt]
  · exact Bool.eq_false_iff.mpr fun h => lt (lineIn_lt h)

/-! ## The three ends -/

/-- The held write of a LIVE window goes to the back (R29, R40). -/
theorem Part.AfterTouch.writes {m : MemAccess} {word : Word} {b : Access} {n : Nat} (h : p.EndsTouch q w sv cp ended)
    (a : Part.AfterTouch p t w (sv.lineLeft sv.back cp.line)) (delivered : p.deliver m word = t)
    (soft : p.softReset ≠ .draining) (live : sv.retiring = false) (notPending : sv.releasePending = false)
    (acc : p.accessOf q = some b) (held : b.phase = .stalled (.touchWait w cp.line) n) (write : b.write = true)
    (producer : sv.geometry.producer = q) (inside : p.logicalOf w sv b.addr) (noTag : p.noTagWord w sv b.addr)
    (line : sv.geometry.offset b.addr / 16 = cp.line) (mask : (p.liveOf w).writeMask = 0xFFFF#16)
    (bus : (p.ports.get q).busCycle = true)
    (other : ∀ b k, p.accessOf q.other = some b → b.phase ≠ .stalled (.touchWait w cp.line) k) :
    p.finishAccess m word =
      { (t.setService w { sv.lineLeft sv.back cp.line with dirty := sv.dirty ||| BitVec.twoPow 64 cp.line }).withPort q
          ⟨some { b with phase := .granted (.producerWrite w false) }, (p.ports.get q).readData, true⟩ with
        arbiter := p.arbiter.grantedTo q (.ofPort q true
          (sv.geometry.base sv.back + BitVec.ofNat 20 (sv.geometry.offset b.addr)) b.lanes b.data
          p.arbiter.accessTime) } := by
  obtain ⟨touch, channels, requests⟩ := a.requests h
  have accT : t.accessOf q = some b := by
    rw [← acc]
    simp only [Part.accessOf, a.ports]
  have gone : lineIn (sv.lineLeft sv.back cp.line).backStale cp.line = false := Service.lineIn_left_own _ _ _
  have over' : t.stallEnded q (.touchWait w cp.line) = true := by
    have ret : (sv.lineLeft sv.back cp.line).retiring = false := live
    simp only [Part.stallEnded, a.service, ret, gone]
    rfl
  have lineOf : (sv.lineLeft sv.back cp.line).geometry.lineOf b.addr = cp.line := line
  have liveT : t.liveOf w = p.liveOf w := by simp only [Part.liveOf, a.live]
  have noTagT : t.noTagWord w (sv.lineLeft sv.back cp.line) b.addr := noTag.imp_left fun h => by rw [liveT]; exact h
  have full : decide ((t.liveOf w).writeMask ≠ 0xFFFF#16) = false := by simp [liveT, mask]
  have cls : t.classify q b.addr b.write = .memory (.producerWrite w false) := by
    rw [Part.classify_logical (a.logicalOf inside), classifyLogical_producer (sv := sv.lineLeft sv.back cp.line) (q := q)
      live producer notPending (Part.noTag_none noTagT), write, lineOf, gone, full]
    rfl
  have goes := Part.finishAccess_goesOn delivered (a.copyAtRest h) (a.stallHolds h other)
    (by rw [a.softReset]; exact soft)
    accT held over' cls touch channels (requests _)
  have granted := Part.portAccess_producerWrite (q := q) a.service write
  rw [full, if_pos (by rw [liveT]; exact mask), a.arbiter] at granted
  rw [granted, Part.grantEffect_producerWrite a.service, lineOf, a.arbiter] at goes
  have port : ({ p.ports.get q with access := some { b with phase := .granted (.producerWrite w false) } } : PortIf) =
      ⟨some { b with phase := .granted (.producerWrite w false) }, (p.ports.get q).readData, true⟩ := by rw [← bus]
  have place : ∀ r : Part, r.ports = p.ports → r.setAccess q { b with phase := .granted (.producerWrite w false) } =
      r.withPort q ⟨some { b with phase := .granted (.producerWrite w false) }, (p.ports.get q).readData, true⟩ :=
    fun r hr => by rw [Part.setAccess, hr, port, Part.withPort, hr]
  rw [place _ ((t.setService_ports w _).trans a.ports)] at goes
  exact goes

/-- The held write of a RETIRING window is held again, from a fresh start time (R70, R90). -/
theorem Part.AfterTouch.holds {m : MemAccess} {word : Word} {b : Access} {n : Nat} (h : p.EndsTouch q w sv cp ended)
    (a : Part.AfterTouch p t w (sv.lineLeft sv.back cp.line)) (delivered : p.deliver m word = t)
    (soft : p.softReset ≠ .draining) (retiring : sv.retiring = true)
    (acc : p.accessOf q = some b) (held : b.phase = .stalled (.touchWait w cp.line) n)
    (inside : p.logicalOf w sv b.addr)
    (other : ∀ b k, p.accessOf q.other = some b → b.phase ≠ .stalled (.touchWait w cp.line) k) :
    p.finishAccess m word = (t.setAccess q { b with phase := .stalled (.retiring w) 0 }).portFree := by
  obtain ⟨touch, channels, requests⟩ := a.requests h
  have accT : t.accessOf q = some b := by
    rw [← acc]
    simp only [Part.accessOf, a.ports]
  have ret : (sv.lineLeft sv.back cp.line).retiring = true := retiring
  have over' : t.stallEnded q (.touchWait w cp.line) = true := by
    simp only [Part.stallEnded, a.service, ret, Part.touchServes, a.queue]
    rfl
  have cls : t.classify q b.addr b.write = .stall (.retiring w) := by
    rw [Part.classify_logical (a.logicalOf inside), classifyLogical, if_pos ret]
  have goes : t.reclassify q = t.setAccess q { b with phase := .stalled (.retiring w) 0 } := by
    rw [Part.reclassify_ended (by rw [a.softReset]; exact soft) accT held over', cls]
    rfl
  have rest : (t.setAccess q { b with phase := .stalled (.retiring w) 0 }).atRest = true := by
    refine Part.atRest_setAccess (a.copyAtRest h) (a.stallHolds h other) fun st k hp => ?_
    cases hp
    simp only [Part.stallEnded, a.service, ret]
    rfl
  have round := Part.round_goesOn (a.copyAtRest h) (a.stallHolds h other) goes rest
  rw [Part.finishAccess_of_round delivered round rest]
  have quiet : ∀ x, (t.setAccess q { b with phase := .stalled (.retiring w) 0 }).portFree.portRequests x = false := by
    intro x
    change (t.setAccess q { b with phase := .stalled (.retiring w) 0 }).portRequests x = false
    rcases Port.eq_or_other q x with rfl | rfl
    · rw [Part.portRequests, Part.accessOf_setAccess]
    · rw [Part.portRequests, Part.setAccess_accessOf_other]
      exact requests _
  exact Part.offer_noRequest touch channels (quiet .a) (quiet .b)

/-- No write waits for the line: nothing goes on. -/
theorem Part.AfterTouch.stays {m : MemAccess} {word : Word} (h : p.EndsTouch q w sv cp ended)
    (a : Part.AfterTouch p t w (sv.lineLeft sv.back cp.line)) (delivered : p.deliver m word = t)
    (unheld : ∀ x b k, p.accessOf x = some b → b.phase ≠ .stalled (.touchWait w cp.line) k) :
    p.finishAccess m word = t.portFree := by
  obtain ⟨touch, channels, requests⟩ := a.requests h
  have rest : t.atRest = true := Part.atRest_iff.mpr ⟨a.copyAtRest h, fun x => a.stallHolds h (unheld x)⟩
  rw [Part.finishAccess_of_rest delivered rest]
  exact Part.offer_noRequest touch channels (requests .a) (requests .b)

end

end Sys2Proof.Machine
end

section
/-!
The end of a touch copy and the window's job (04_copy_engine.md R80, R81): the job stands, or is complete with the line.
-/

namespace Sys2Proof.Machine

section
variable {p : Part} {q : Port} {w : Win} {sv left : Service} {cp : LineCopy} {ended : Bool}

/-! ## The job -/

theorem Part.testJob_stands {t : Part} (hs : t.service w = some left)
    (behind : ∀ job, t.jobOf w = some job → left.stale.get (left.jobTarget job) ≠ noLines) : t.testJob w = t := by
  have notComplete : t.jobComplete w = false := by
    cases hj : t.jobOf w with
    | none => simp only [Part.jobComplete, hs, hj]
    | some job => exact Part.jobComplete_stale hs hj (behind job hj)
  rw [Part.testJob, notComplete]
  rfl

theorem Part.testJob_caughtUp {t : Part} (hs : t.service w = some left) (job : t.jobOf w = some .catchUp)
    (clean : left.backStale = noLines) (lines : t.inCopyLines w = noLines) (notPending : left.releasePending = false) :
    t.testJob w = (t.endJob w).note left.geometry.producer w .backReady := by
  have complete : t.jobComplete w = true := by
    have clean' : left.stale.get (left.jobTarget .catchUp) = noLines := clean
    simp only [Part.jobComplete, hs, job, clean', lines, decide_true, Bool.and_self]
  have service : (t.endJob w).service w = some left := hs
  rw [Part.testJob, complete, job]
  simp only [if_true, Part.completeCatchUp, service, notPending, Bool.false_eq_true, if_false]

/-- The window's entry goes where no channel serves it. -/
theorem Part.endJob_unserved {t : Part} (unserved : ∀ d, (t.channel d).work.served? ≠ some w) :
    t.endJob w = t.setWaiting (t.copy.waiting.filter (fun e => e.window ≠ w)) := by
  have channels : (t.endJob w).copy.channels = t.copy.channels := by
    refine Part.channels_ext fun d => ?_
    rw [Part.channel_endJob]
    have other := unserved d
    unfold Channel.ended
    split
    · rename_i v _ _ hw
      rw [if_neg fun e => other (by rw [hw, e]; rfl)]
    · rfl
  change { t with copy := { t.copy with
    channels := (t.endJob w).copy.channels, waiting := t.copy.waiting.filter (fun e => decide (e.window ≠ w)) } } = _
  rw [channels]
  rfl

/-- The window's one entry on the waiting list (R82). -/
theorem Part.entryOf_only {t : Part} (jobs : t.JobsOk) {e : WaitEntry} (entry : e ∈ t.copy.waiting)
    (window : e.window = w) :
    t.entryOf w = some e := by
  unfold Part.entryOf
  cases found : t.copy.waiting.find? (fun x => x.window = w) with
  | none => exact absurd (List.find?_eq_none.mp found e entry) (by simp [window])
  | some x =>
    have same : x.window = w := by simpa using List.find?_some found
    rw [List.inj_on_of_nodup_map jobs.once (List.mem_of_find?_eq_some found) entry (same.trans window.symm)]

theorem ChannelWork.mark_of_notServed {k : ChannelWork} (h : k.served? ≠ some w) : k.mark w = noLines := by
  refine eq_noLines_iff.mpr fun l => Bool.eq_false_iff.mpr fun marked => ?_
  obtain ⟨job, copy, serves, -⟩ := ChannelWork.lineIn_mark.mp marked
  exact h (ChannelWork.served?_iff.mpr ⟨job, some copy, serves⟩)

theorem Part.inCopyLines_unmarked {t : Part} (channels : ∀ d, (t.channel d).work.mark w = noLines)
    (touch : t.copy.touch.work.mark w = noLines) : t.inCopyLines w = noLines := by
  refine eq_noLines_iff.mpr fun l => Bool.eq_false_iff.mpr fun marked => ?_
  rcases Part.lineIn_inCopyLines.mp marked with ⟨d, hd⟩ | ht
  · rw [channels, lineIn_noLines] at hd
    cases hd
  · rw [touch, lineIn_noLines] at ht
    cases ht

/-! ## The parts that the line end leaves -/

theorem Part.service_touchOver (p : Part) (w : Win) (left : Service) : (p.touchOver w left).service w = some left :=
  Part.service_setService_same _ w left

theorem Part.service_touchOver_ne (p : Part) {u : Win} (h : u ≠ w) (left : Service) :
    (p.touchOver w left).service u = p.service u :=
  Part.service_setService_ne _ h left

/-- The job stands. -/
theorem Part.EndsTouch.afterTouch (h : p.EndsTouch q w sv cp ended) (left : Service) (noWait : p.noChannelWaitsIn w) :
    Part.AfterTouch p (p.touchOver w left) w left where
  ports := rfl
  service := p.service_touchOver w left
  others _ hv := p.service_touchOver_ne hv left
  queue := rfl
  deferred := h.deferred
  touch := rfl
  channels d := .inl ⟨rfl, noWait d⟩
  jobs := (Part.atRest_iff_queues.mp h.rest).2.1
  arbiter := rfl
  softReset := rfl
  opState := rfl
  live := rfl

/-- The job's entry is gone, and no channel served the window. -/
theorem Part.EndsTouch.afterTouch_waiting (h : p.EndsTouch q w sv cp ended) (left : Service)
    (unserved : ∀ d, (p.channel d).work.served? ≠ some w) (noFree : p.freeChannel? = none) (l : List WaitEntry) (x : Port) :
    Part.AfterTouch p (((p.touchOver w left).setWaiting l).note x w .backReady) w left where
  ports := rfl
  service := p.service_touchOver w left
  others _ hv := p.service_touchOver_ne hv left
  queue := rfl
  deferred := h.deferred
  touch := rfl
  channels d := .inl ⟨rfl, fun job serves => unserved d (by rw [serves]; rfl)⟩
  jobs := .inl noFree
  arbiter := rfl
  softReset := rfl
  opState := rfl
  live := rfl

/-- The channel that served the window without a line is IDLE. -/
theorem Part.EndsTouch.afterTouch_served (h : p.EndsTouch q w sv cp ended) (left : Service) {c : Chan} {job : Job}
    (serves : (p.channel c).work = .serving w job none) (alone : ∀ d, d ≠ c → (p.channel d).work.served? ≠ some w)
    (empty : p.copy.waiting = []) (x : Port) :
    Part.AfterTouch p (((p.touchOver w left).setChannelWork c .idle).note x w .backReady) w left where
  ports := rfl
  service := p.service_touchOver w left
  others _ hv := p.service_touchOver_ne hv left
  queue := rfl
  deferred := h.deferred
  touch := rfl
  channels d := by
    by_cases hd : d = c
    · subst hd
      exact .inr ⟨((p.touchOver w left).work_setChannelWork d d .idle).trans (if_pos rfl), by rw [serves]; rfl⟩
    · refine .inl ⟨Part.channel_setChannel_ne (p.touchOver w left) hd _, fun job' serves' => alone d hd ?_⟩
      rw [serves']
      rfl
  jobs := .inr empty
  arbiter := rfl
  softReset := rfl
  opState := rfl
  live := rfl

/-- The completion of the last word where the job has more to do (R80, R81). -/
theorem Part.EndsTouch.deliver_stands (h : p.EndsTouch q w sv cp ended) {m : MemAccess} (own : m.requestor = .touch)
    (write : m.write = true) (last : cp.word = 15) (word : Word)
    (behind : ∀ job, p.jobOf w = some job →
      (sv.lineLeft sv.back cp.line).stale.get ((sv.lineLeft sv.back cp.line).jobTarget job) ≠ noLines) :
    p.deliver m word = p.touchOver w (sv.lineLeft sv.back cp.line) := by
  rw [h.delivered own write last]
  exact Part.testJob_stands (p.service_touchOver w _) behind

/-- The completion of the last word of the last stale line (R80). -/
theorem Part.EndsTouch.deliver_caughtUp (h : p.EndsTouch q w sv cp ended) {m : MemAccess} (own : m.requestor = .touch)
    (write : m.write = true) (last : cp.word = 15) (word : Word) (job : p.jobOf w = some .catchUp)
    (clean : sv.backStale &&& ~~~ BitVec.twoPow 64 cp.line = 0#64) (notPending : sv.releasePending = false)
    (lines : ∀ d, (p.channel d).work.mark w = noLines) :
    p.deliver m word =
      ((p.touchOver w (sv.lineLeft sv.back cp.line)).endJob w).note sv.geometry.producer w .backReady := by
  rw [h.delivered own write last]
  exact Part.testJob_caughtUp (left := sv.lineLeft sv.back cp.line) (p.service_touchOver w _) job
    ((Service.stale_lineLeft_same _ _ _).trans clean) (Part.inCopyLines_unmarked lines rfl) notPending

end

/-! ## The obligation -/

/-- Settles O26: the write goes to the back, with the job as it stands or complete; it is held again in a RETIRING window;
or there is none. -/
theorem touchCopyEnds : Obligations.TouchCopyEnds := by
  unfold Obligations.TouchCopyEnds
  intro q w sv cp ended m s access own kind write last soft rest only wf work hs notPending queue deferred other target
    base1 base2 base3 stale left touched p result
  have ends : s.part.EndsTouch q w sv cp ended :=
    ⟨rest, only, work, hs, queue, deferred, Geometry.bankAt_of_base target ⟨base1, base2, base3⟩⟩
  have soft' : s.part.softReset ≠ .draining := by rw [soft]; nofun
  have finishes : ∀ {t}, s.part.finishAccess m (s.accessWord m) = t → exec .memoryAccessCompletion s =
      .next { (s.onPart t) with mem := s.accessMem m, freeIndex := s.freeIndex + 1 } := fun h =>
    (exec_completion access (.inl kind) soft).trans (congrArg (fun r : Part => Host.Outcome.next
      { (s.onPart r) with mem := s.accessMem m, freeIndex := s.freeIndex + 1 }) h)
  refine ⟨s.accessMem m, State.accessMem_afterWrite wf write, ?live, ?retiring, ?ended⟩
  case live =>
    rintro a n ⟨live, acc, phase, isWrite, notEnded, producer, inside, noTag, line, mask, bus⟩
    intro written
    have goes : ∀ {t}, Part.AfterTouch s.part t w left → s.part.deliver m (s.accessWord m) = t →
        exec .memoryAccessCompletion s = .next (written t) := fun after delivered =>
      finishes (after.writes ends delivered soft' live notPending acc phase isWrite producer inside noTag line mask
        bus other)
    refine ⟨fun ⟨behind, noWait, notRetire⟩ => ?_, fun ⟨empty, noServer, ⟨e, entry, window, catchUp⟩, jobsOk⟩ => ?_,
      fun c ⟨empty, serves, noneWaits, jobsOk⟩ => ?_⟩
    · refine goes (ends.afterTouch left noWait) (ends.deliver_stands own write last _ fun job hj => ?_)
      cases job with
      | catchUp => exact fun h => behind ((Service.stale_lineLeft_same _ _ _).symm.trans h)
      | retire => exact absurd hj notRetire
    · have jobs := Part.waitingOk_iff.mp jobsOk
      have unserved := Part.servedBy_none_iff.mp noServer
      have job : s.part.jobOf w = some .catchUp := by
        rw [Part.jobOf, noServer, Part.entryOf_only jobs entry window, ← catchUp]
        rfl
      have noFree : s.part.freeChannel? = .none :=
        (Part.atRest_iff_queues.mp rest).2.1.resolve_right fun h => by rw [h] at entry; cases entry
      have delivered := ends.deliver_caughtUp own write last (s.accessWord m) job empty notPending fun d =>
        ChannelWork.mark_of_notServed (unserved d)
      rw [Part.endJob_unserved (t := s.part.touchOver w (sv.lineLeft sv.back cp.line)) unserved, producer] at delivered
      exact goes (ends.afterTouch_waiting left unserved noFree _ q) delivered
    · have jobs := Part.waitingOk_iff.mp jobsOk
      have own' : (s.part.channel c).work.served? = some w := by rw [serves]; rfl
      have alone : ∀ d, d ≠ c → (s.part.channel d).work.served? ≠ some w := fun d hd served =>
        hd (jobs.alone d c w served own')
      have lines : ∀ d, (s.part.channel d).work.mark w = noLines := fun d => by
        by_cases hd : d = c
        · rw [hd, serves]
          rfl
        · exact ChannelWork.mark_of_notServed (alone d hd)
      have delivered := ends.deliver_caughtUp own write last (s.accessWord m) (Part.jobOf_serving serves alone) empty
        notPending lines
      rw [Part.endJob_alone (p := s.part.touchOver w (sv.lineLeft sv.back cp.line)) serves alone
        (by change ∀ e ∈ s.part.copy.waiting, _; rw [noneWaits]; exact List.forall_mem_nil _), producer] at delivered
      exact goes (ends.afterTouch_served left serves alone noneWaits q) delivered
  case retiring =>
    rintro a n ⟨retiring, acc, phase, notEnded, inside, behind, noWait, job⟩
    have delivered := ends.deliver_stands own write last (s.accessWord m) fun k hk => by
      obtain rfl : Job.retire = k := Option.some.inj (job.symm.trans hk)
      exact behind
    exact finishes ((ends.afterTouch left noWait).holds ends delivered soft' retiring acc phase inside other)
  case ended =>
    rintro ⟨isEnded, noWait, unheld, job⟩
    have delivered := ends.deliver_stands own write last (s.accessWord m) fun k hk => by
      rcases job with ⟨-, behind, job⟩ | ⟨-, behind, job⟩
      · obtain rfl : Job.catchUp = k := Option.some.inj (job.symm.trans hk)
        exact fun h => behind ((Service.stale_lineLeft_same _ _ _).symm.trans h)
      · obtain rfl : Job.retire = k := Option.some.inj (job.symm.trans hk)
        exact behind
    refine finishes ((ends.afterTouch left noWait).stays ends delivered fun x b k hb => ?_)
    rcases Port.eq_or_other q x with rfl | rfl
    · exact unheld b k hb
    · exact other b k hb

end Sys2Proof.Machine
end
